-- ==== Sys2Proof/Word.lean ====
section
/-! DEFINITION. The word types of the block: bytes, 7-bit bus addresses, 20-bit command words (spec/00_scope.md R8,
spec/30_encoding.md R80). Only what the spec treats as bits is a bit vector; a level, a flag and a 1-bit latch is a
`Bool` with `true` for 1. -/

namespace Sys2Proof

/-- An 8-bit value: every byte on the bus, the shifting accumulator (R8). -/
abbrev Byte := BitVec 8

/-- A 7-bit target address of the two-wire bus (R8, R53). -/
abbrev BusAddr := BitVec 7

/-- A 20-bit command word (R80). -/
abbrev CmdWord := BitVec 20

end Sys2Proof
end

