-- ==== Sys2Proof/Config.lean ====
section
/-! DEFINITION. The parameters of an instance (spec/00_scope.md R6, R7) and the free values: what the spec leaves
open. An `opaque` constant has no body, so nothing can be proved of its value. -/

namespace Sys2Proof

/-- The parameters of spec/00_scope.md R6, one field each: "a constant for the lifetime of an instance". `pinSda` and
`pinScl` are labels that enter no rule (spec/10_state.md R32, D29); `lines` and `cols` enter the host's side only, the
positions of the display and the room left on a line (spec/20_memory.md R55, R56, spec/70_reset_and_hazards.md
R251). -/
structure Config where
  /-- `ADDR`: 7-bit target address of the I/O expander. -/
  addr : BusAddr
  /-- `PIN_SDA`: GPIO identifier of the data pad. -/
  pinSda : Nat
  /-- `PIN_SCL`: GPIO identifier of the clock pad. -/
  pinScl : Nat
  /-- `T_BUS_US`: one bus delay, in microseconds. -/
  tBusUs : Nat
  /-- `T_STROBE_US`: settle delay between the writes of an enable pulse, in microseconds. -/
  tStrobeUs : Nat
  /-- `T_CLEAR_MS`: settle delay after the clear command, in milliseconds. -/
  tClearMs : Nat
  /-- `STOP_SDA_LOW_FIRST`: whether STOP drives data low before releasing the clock (R135). -/
  stopSdaLowFirst : Bool
  /-- `BIT_RS`: mask of the register-select bit in the expander byte. -/
  bitRs : Byte
  /-- `BIT_RW`: mask of the read/write bit. -/
  bitRw : Byte
  /-- `BIT_EN`: mask of the enable-strobe bit. -/
  bitEn : Byte
  /-- `BIT_BL`: mask of the backlight-enable bit. -/
  bitBl : Byte
  /-- `MODE_COMMAND`: the value of a 1-bit mode operand for a command. -/
  modeCommand : Bool
  /-- `MODE_CHARACTER`: the value of a 1-bit mode operand for a character. -/
  modeCharacter : Bool
  /-- `LCD_CLEARDISPLAY`. -/
  lcdClearDisplay : Byte
  /-- `LCD_ENTRYMODESET`. -/
  lcdEntryModeSet : Byte
  /-- `LCD_ENTRYLEFT`. -/
  lcdEntryLeft : Byte
  /-- `LCD_FUNCTIONSET`. -/
  lcdFunctionSet : Byte
  /-- `LCD_2LINE`. -/
  lcd2Line : Byte
  /-- `LCD_DISPLAYCONTROL`. -/
  lcdDisplayControl : Byte
  /-- `LCD_DISPLAYON`. -/
  lcdDisplayOn : Byte
  /-- `DDRAM_LINE0`: command byte base for display line 0. -/
  ddramLine0 : Byte
  /-- `DDRAM_LINE1`: command byte base for display line 1. -/
  ddramLine1 : Byte
  /-- `LINES`: display lines. -/
  lines : Nat
  /-- `COLS`: display columns. -/
  cols : Nat
  deriving DecidableEq, Repr

/-- FREE VALUE, notes/assumptions/6.md: by how much `T_CLEAR_MS` exceeds its only constraint `T_CLEAR_MS >= 1`
(R6, spec/92_eei_decisions.md D15: `OPEN`). -/
opaque Config.clearMsAboveOne : Nat

/-- FREE VALUE, notes/assumptions/4.md: does another device pull the clock line low at step `n`? (R50: "the block does
not control it and a model places no law on it"). -/
opaque Config.freePullScl : Nat → Bool

/-- FREE VALUE, notes/assumptions/4.md: does another device pull the data line low at step `n`? (R50). -/
opaque Config.freePullSda : Nat → Bool

/-- FREE VALUE, notes/assumptions/2.md: `SHREG` after a reset in step `n` (spec/10_state.md R40: unspecified). -/
opaque Config.resetShreg : Nat → Byte

/-- FREE VALUE, notes/assumptions/2.md: `ACKBIT` after a reset in step `n` (R40, U2: "any value, under no law"). -/
opaque Config.resetAckbit : Nat → Bool

/-- FREE VALUE, notes/assumptions/2.md: `RSP` after a reset in step `n` (R40, U2). -/
opaque Config.resetRsp : Nat → Bool

/-- FREE VALUE, notes/assumptions/2.md: `CMD` after a reset in step `n` (R40: unspecified). -/
opaque Config.resetCmd : Nat → CmdWord

/-- The default instance of R6, with a given clear delay. The four masks, the two mode values and the seven controller
codes are the spec's own defaults from general knowledge (D10, D11, D12; notes/assumptions/1.md). -/
def Config.defaultWith (clearMs : Nat) : Config where
  addr := 0x27#7
  pinSda := 4
  pinScl := 5
  tBusUs := 1
  tStrobeUs := 500
  tClearMs := clearMs
  stopSdaLowFirst := false
  bitRs := 0x01#8
  bitRw := 0x02#8
  bitEn := 0x04#8
  bitBl := 0x08#8
  modeCommand := false
  modeCharacter := true
  lcdClearDisplay := 0x01#8
  lcdEntryModeSet := 0x04#8
  lcdEntryLeft := 0x02#8
  lcdFunctionSet := 0x20#8
  lcd2Line := 0x08#8
  lcdDisplayControl := 0x08#8
  lcdDisplayOn := 0x04#8
  ddramLine0 := 0x80#8
  ddramLine1 := 0xC0#8
  lines := 2
  cols := 16

/-- The default instance: every parameter at its value of R6, `T_CLEAR_MS` open above 1. -/
def Config.default : Config := Config.defaultWith (Config.clearMsAboveOne + 1)

end Sys2Proof
end

