-- ==== Sys2Proof/Syntax.lean ====
section
/-! DEFINITION. The thirteen commands of spec/30_encoding.md R81, one constructor of `Instr` per row of
spec/opcode_table.json, with operands exactly as wide as R82 gives them, and the three fields of a raw command word
(R80). PUTC, LCDCMD and STRING are other spellings of SENDB words (R98) and have no constructor. -/

namespace Sys2Proof

/-- A bus line: "one of {CLOCK, DATA}" (spec/00_scope.md R14). -/
inductive Line where
  /-- the clock line -/
  | scl
  /-- the data line -/
  | sda
  deriving DecidableEq, Repr, Inhabited

/-- The mode operand of a SENDB, 1 bit (R82). Which of its values is COMMAND and which CHARACTER are parameters of the
instance, `Config.modeCommand` and `Config.modeCharacter` (spec/00_scope.md R6). -/
abbrev Mode := Bool

/-- A display line of SETCUR: "line ∈ {0,1}" (R55, R82). -/
inductive DispLine where
  | line0
  | line1
  deriving DecidableEq, Repr, Inhabited

/-- The commands of the block (R81). -/
inductive Instr where
  /-- LLOW, drive a line low (R112). -/
  | llow (l : Line)
  /-- LREL, release a line (R113). -/
  | lrel (l : Line)
  /-- LREAD, read a line level (R114). -/
  | lread (l : Line)
  /-- DELAY, one bus delay (R115). -/
  | delay
  /-- START, the start sequence (R131). -/
  | start
  /-- STOP, the stop sequence (R134, R135). -/
  | stop
  /-- RESTART, the repeated-start sequence (R137). -/
  | restart
  /-- XFER, the byte transfer with acknowledgment (R138). -/
  | xfer (v : Byte)
  /-- WRITE, one addressed write transaction (R160). -/
  | write (addr : BusAddr) (payload : Byte)
  /-- SENDB, one 8-bit value to the controller as two nibbles (R170). -/
  | sendb (m : Mode) (v : Byte)
  /-- CLEAR, clear the display (R176). -/
  | clear
  /-- SETCUR, set the cursor position (R178). -/
  | setcur (line : DispLine) (column : BitVec 4)
  /-- INIT, the initialization handshake (R180). -/
  | init
  deriving DecidableEq, Repr

/-- The three fields of a command word: `op = w[19:16]`, `a = w[15:8]`, `b = w[7:0]` (R80). -/
structure Fields where
  op : BitVec 4
  a : Byte
  b : Byte
  deriving DecidableEq, Repr

end Sys2Proof
end

