-- ==== Sys2Proof/WellFormed.lean ====
section
/-! DEFINITION. Which command words and which configurations are well formed. The operands of `Instr` are exactly as
wide as the spec's ranges (spec/30_encoding.md R82: "an out-of-range operand cannot be encoded with the reserved bits
zero"), so the checks stand on the raw fields of a word: reserved opcodes and reserved operand bits (R82, R99). -/

namespace Sys2Proof

/-- Why a command word is illegal (R99). -/
inductive IllFormed where
  /-- the opcode is one of the three reserved ones, `0x0`, `0xE`, `0xF` -/
  | reservedOpcode
  /-- a bit of the first operand field that R82 reserves is 1 -/
  | reservedBitOfA
  /-- a bit of the second operand field that R82 reserves is 1 -/
  | reservedBitOfB
  deriving DecidableEq, Repr

/-- The bits of `a` and of `b` that R82 reserves for an opcode; `none` for a reserved opcode (R81). -/
def reservedBits (op : BitVec 4) : Option (Byte × Byte) :=
  match op.toNat with
  | 1 => some (0xFF#8, 0xFE#8)
  | 2 => some (0xFF#8, 0xFE#8)
  | 3 => some (0xFF#8, 0xFE#8)
  | 4 => some (0xFF#8, 0xFF#8)
  | 5 => some (0xFF#8, 0xFF#8)
  | 6 => some (0xFF#8, 0xFF#8)
  | 7 => some (0xFF#8, 0xFF#8)
  | 8 => some (0xFF#8, 0x00#8)
  | 9 => some (0x80#8, 0x00#8)
  | 10 => some (0xFE#8, 0x00#8)
  | 11 => some (0xFF#8, 0xFF#8)
  | 12 => some (0xFE#8, 0xF0#8)
  | 13 => some (0xFF#8, 0xFF#8)
  | _ => none

/-- The first check of R99 that a word's fields fail, if any. -/
def Fields.illFormed (f : Fields) : Option IllFormed :=
  match reservedBits f.op with
  | none => some .reservedOpcode
  | some (ra, rb) =>
    if f.a &&& ra ≠ 0#8 then some .reservedBitOfA
    else if f.b &&& rb ≠ 0#8 then some .reservedBitOfB
    else none

/-- A word's fields are well formed when no check of R99 fails. -/
def Fields.wellFormed (f : Fields) : Bool := f.illFormed.isNone

/-- A mask is a single bit of the low nibble `0x0F` (spec/00_scope.md R7). -/
def isLowNibbleBit (m : Byte) : Bool :=
  m == 0x01#8 || m == 0x02#8 || m == 0x04#8 || m == 0x08#8

/-- The constraint R7 puts on the four masks, "exactly this constraint and nothing more". -/
def Config.masksOk (c : Config) : Bool :=
  isLowNibbleBit c.bitRs && isLowNibbleBit c.bitRw && isLowNibbleBit c.bitEn && isLowNibbleBit c.bitBl &&
  c.bitRs != c.bitRw && c.bitRs != c.bitEn && c.bitRs != c.bitBl &&
  c.bitRw != c.bitEn && c.bitRw != c.bitBl && c.bitEn != c.bitBl

/-- COMMAND and CHARACTER are two modes (R6, R82: "mode ∈ {COMMAND, CHARACTER}"; DEDUCED, notes/assumptions/1.md). -/
def Config.modesOk (c : Config) : Bool := c.modeCommand != c.modeCharacter

/-- An admissible instance: the masks as R7 says, two modes, and `T_CLEAR_MS >= 1` (R6). -/
def Config.admissible (c : Config) : Bool := c.masksOk && c.modesOk && decide (1 ≤ c.tClearMs)

/-- The number of a display line (spec/20_memory.md R55). -/
def DispLine.number : DispLine → Nat
  | .line0 => 0
  | .line1 => 1

/-- The display of the instance has this cursor position (R6, spec/20_memory.md R55). -/
def Config.hasPosition (c : Config) (line : DispLine) (column : BitVec 4) : Bool :=
  decide (line.number < c.lines) && decide (column.toNat < c.cols)

/-- How many characters fit on a line from a column on: the host must count them, the block does not
(spec/70_reset_and_hazards.md R251). No step reads it. -/
def Config.charactersLeft (c : Config) (column : BitVec 4) : Nat := c.cols - column.toNat

/-- The number of cursor positions of the instance's display (spec/20_memory.md R56). -/
def Config.positions (c : Config) : Nat := c.lines * c.cols

end Sys2Proof
end

