-- ==== Sys2Proof/Decode.lean ====
section
/-! DEFINITION. Decoding of command words, total and rejecting by name, and the encoder (spec/30_encoding.md R80 to
R82, R99, R101). The numbers `0` and `1` of a line operand and of a
cursor-line operand are turned into names here, once; a mode operand stays a bit, since its names are parameters. -/

namespace Sys2Proof

/-- A line operand: `0` = SCL, `1` = SDA (R82). -/
def lineOfBit (b : Bool) : Line := if b then .sda else .scl

/-- The bit of a line operand (R82). -/
def bitOfLine : Line → Bool
  | .scl => false
  | .sda => true

/-- A cursor-line operand (R82). -/
def dispLineOfBit (b : Bool) : DispLine := if b then .line1 else .line0

/-- The bit of a cursor-line operand (R82). -/
def bitOfDispLine : DispLine → Bool
  | .line0 => false
  | .line1 => true

/-- One bit, zero-extended to a byte. -/
def byteOfBit (b : Bool) : Byte := (BitVec.ofBool b).zeroExtend 8

/-- The three fields of a word (R80). -/
def fieldsOf (w : CmdWord) : Fields where
  op := w.extractLsb' 16 4
  a := w.extractLsb' 8 8
  b := w.extractLsb' 0 8

/-- The word with the given fields (R80). -/
def wordOf (f : Fields) : CmdWord := f.op ++ f.a ++ f.b

/-- The command that well-formed fields stand for (R81); `none` for a reserved opcode. -/
def commandOf (f : Fields) : Option Instr :=
  match f.op.toNat with
  | 1 => some (.llow (lineOfBit (f.b.getLsbD 0)))
  | 2 => some (.lrel (lineOfBit (f.b.getLsbD 0)))
  | 3 => some (.lread (lineOfBit (f.b.getLsbD 0)))
  | 4 => some .delay
  | 5 => some .start
  | 6 => some .stop
  | 7 => some .restart
  | 8 => some (.xfer f.b)
  | 9 => some (.write (f.a.extractLsb' 0 7) f.b)
  | 10 => some (.sendb (f.a.getLsbD 0) f.b)
  | 11 => some .clear
  | 12 => some (.setcur (dispLineOfBit (f.a.getLsbD 0)) (f.b.extractLsb' 0 4))
  | 13 => some .init
  | _ => none

/-- Decode a command word: the checks of R99 first, then the opcode map of R81. -/
def decode (w : CmdWord) : Except IllFormed Instr :=
  match (fieldsOf w).illFormed with
  | some e => .error e
  | none =>
    match commandOf (fieldsOf w) with
    | some i => .ok i
    | none => .error .reservedOpcode

/-- The fields a command is encoded in: opcode, `a`, `b`, reserved bits zero (R81, R82). -/
def operandFields : Instr → Fields
  | .llow l => ⟨0x1#4, 0#8, byteOfBit (bitOfLine l)⟩
  | .lrel l => ⟨0x2#4, 0#8, byteOfBit (bitOfLine l)⟩
  | .lread l => ⟨0x3#4, 0#8, byteOfBit (bitOfLine l)⟩
  | .delay => ⟨0x4#4, 0#8, 0#8⟩
  | .start => ⟨0x5#4, 0#8, 0#8⟩
  | .stop => ⟨0x6#4, 0#8, 0#8⟩
  | .restart => ⟨0x7#4, 0#8, 0#8⟩
  | .xfer v => ⟨0x8#4, 0#8, v⟩
  | .write addr payload => ⟨0x9#4, addr.zeroExtend 8, payload⟩
  | .sendb m v => ⟨0xA#4, byteOfBit m, v⟩
  | .clear => ⟨0xB#4, 0#8, 0#8⟩
  | .setcur line column => ⟨0xC#4, byteOfBit (bitOfDispLine line), column.zeroExtend 8⟩
  | .init => ⟨0xD#4, 0#8, 0#8⟩

/-- The word of a command. -/
def encode (i : Instr) : CmdWord := wordOf (operandFields i)

/-- The `match` and `mask` of a command's row in R101 (and in spec/opcode_table.json). -/
def tableRow : Instr → CmdWord × CmdWord
  | .llow _ => (0x10000#20, 0xFFFFE#20)
  | .lrel _ => (0x20000#20, 0xFFFFE#20)
  | .lread _ => (0x30000#20, 0xFFFFE#20)
  | .delay => (0x40000#20, 0xFFFFF#20)
  | .start => (0x50000#20, 0xFFFFF#20)
  | .stop => (0x60000#20, 0xFFFFF#20)
  | .restart => (0x70000#20, 0xFFFFF#20)
  | .xfer _ => (0x80000#20, 0xFFF00#20)
  | .write _ _ => (0x90000#20, 0xF8000#20)
  | .sendb _ _ => (0xA0000#20, 0xFFE00#20)
  | .clear => (0xB0000#20, 0xFFFFF#20)
  | .setcur _ _ => (0xC0000#20, 0xFFEF0#20)
  | .init => (0xD0000#20, 0xFFFFF#20)

/-- The word matches the command's row of the table: `w & mask = match` (R101). -/
def matchesRow (w : CmdWord) (i : Instr) : Bool := w &&& (tableRow i).2 == (tableRow i).1

/-- The command a table word decodes to: bit 0 of `w` is bit 0 of the one 20-bit word; a number that does not fit in 20
bits is no command word. The `nbits` of a row (20, or 24 in whole bytes) says nothing more, since there is one length
(R80). -/
def decodeTableWord (_nbits w : Nat) : Option Instr :=
  if w < 2 ^ 20 then (decode (BitVec.ofNat 20 w)).toOption else none

end Sys2Proof
end

