-- ==== Sys2Proof/Machine/State.lean ====
section
/-! DEFINITION. The state of the block: the nine registers of spec/10_state.md R20, the instance's parameters (R32),
and the model's own fields for the inputs of the step relation (R41) and its record. Plain data throughout. -/

namespace Sys2Proof.Machine

/-- What the block does to a line: drive it low or release it (R21). There is no third value: the block never drives a
line high. -/
inductive Drive where
  /-- actively driven low by the block -/
  | low
  /-- released; the external pull-up takes the line high unless another device holds it low -/
  | rel
  deriving DecidableEq, Repr, Inhabited

/-- The unit of a delay request: microseconds or milliseconds (spec/40_line_helpers.md R111). -/
inductive TimeUnit where
  | us
  | ms
  deriving DecidableEq, Repr, Inhabited

/-- The two registers a sample can be written to (spec/00_scope.md R11). -/
inductive SampleReg where
  | ackbit
  | rsp
  deriving DecidableEq, Repr, Inhabited

/-- The micro-operations (spec/00_scope.md R11, spec/40_line_helpers.md R110). -/
inductive MicroOp where
  /-- `Set(L, s)`: `DRV[L] <- s` -/
  | set (l : Line) (d : Drive)
  /-- `Set(SDA, bitstate(SHREG[7]))`, the data set-up of a bit phase (spec/41_bus_engine.md R139) -/
  | setTop
  /-- `Dly(u, n)`: one request to the external timer (R111) -/
  | dly (u : TimeUnit) (n : Nat)
  /-- `Smp(L) -> R`: `R <- Level(L)` -/
  | smp (l : Line) (r : SampleReg)
  /-- `Ld(v)`: `SHREG <- v` -/
  | ld (v : Byte)
  /-- `Shl`: `SHREG <- (SHREG << 1)[7:0]` -/
  | shl
  deriving DecidableEq, Repr

/-- What the other devices do to the two lines in one step: `true` = some device pulls it low
(spec/20_memory.md R50, `env_pull`). -/
structure Pull where
  scl : Bool
  sda : Bool
  deriving DecidableEq, Repr, Inhabited

/-- The two pads as one step leaves them: the block's drivers and the electrical levels (`true` = high) at the pad
inputs `scl_in`, `sda_in` (R50). -/
structure Pads where
  scl : Drive
  sda : Drive
  sclIn : Bool
  sdaIn : Bool
  deriving DecidableEq, Repr

/-- The completion signals of one step (spec/30_encoding.md R83): `done` not pulsed, `done` without a response, `done`
with `rsp_valid = 1` and the given `rsp_data`. -/
inductive Completion where
  | none
  | done
  | doneWith (rsp : Bool)
  deriving DecidableEq, Repr

/-- What one step was (spec/60_exceptions.md R206: at most one thing per step). -/
inductive Event where
  /-- a legal command word was accepted -/
  | accepted (w : CmdWord)
  /-- `raise Illegal(w)` (R203) -/
  | illegal (w : CmdWord)
  /-- one micro-operation of the running command (a `Dly`: asked and answered in this step) -/
  | micro (op : MicroOp)
  /-- a `Dly` has asked the timer in this step and has no answer yet (spec/40_line_helpers.md R111) -/
  | asked (op : MicroOp)
  /-- the `Dly` asked in an earlier step still has no answer -/
  | pending (op : MicroOp)
  /-- the answer to the `Dly` asked in an earlier step: the micro-operation is complete -/
  | answered (op : MicroOp)
  /-- nothing: the block is idle and no word is presented -/
  | idle
  /-- `rst` was asserted -/
  | rst
  deriving DecidableEq, Repr

/-- One step of the record. -/
structure Entry where
  event : Event
  pads : Pads
  completion : Completion
  deriving DecidableEq, Repr

/-- What arrives at the input ports `rst`, `cmd_valid`, `cmd` and `dly_done` (spec/60_exceptions.md R212, R217;
spec/10_state.md R41). The pads' inputs are `State.env`. -/
inductive PortInput where
  /-- the source's blocking call: `w` is held until it is accepted and the host waits for its completion. ONE step of
  the model runs it, every delay request in it answered (notes/assumptions/3.md, 5.md) -/
  | call (w : CmdWord)
  /-- `cmd_valid = 1` with word `w` for one step; `dlyDone`: the timer's answer in this step -/
  | present (w : CmdWord) (dlyDone : Bool)
  /-- `cmd_valid = 0` for one step; `dlyDone`: the timer's answer in this step -/
  | quiet (dlyDone : Bool)
  /-- `rst = 1` for one step -/
  | rst
  deriving DecidableEq, Repr

/-- The state of an instance of LCDI2C. -/
structure State where
  /-- the parameters of the instance (spec/00_scope.md R6); written by no step (R32) -/
  cfg : Config
  /-- `DRV[SCL]` -/
  drvScl : Drive
  /-- `DRV[SDA]` -/
  drvSda : Drive
  /-- `SHREG`, the shifting accumulator (R23) -/
  shreg : Byte
  /-- `ACKBIT`, the last sampled acknowledgment slot, `true` = line high = not acknowledged (R24) -/
  ackbit : Bool
  /-- `RSP`, the response latch (R25) -/
  rsp : Bool
  /-- `ILLEGAL`, sticky (R30) -/
  illegal : Bool
  /-- `BUSY` (R29) -/
  busy : Bool
  /-- `CMD`, the accepted command word (R27) -/
  cmd : CmdWord
  /-- `upc`, the index of the next micro-operation (R27) -/
  upc : Nat
  /-- MODEL'S OWN: the `Dly` at `upc` has asked the timer and has no answer yet (spec/40_line_helpers.md R111: the
  block "does nothing until the external timer answers"; notes/assumptions/5.md) -/
  waiting : Bool
  /-- MODEL'S OWN: what arrives at the ports at the coming steps, next first; past its end the host presents nothing
  and the timer answers (notes/assumptions/5.md, 8.md) -/
  port : List PortInput
  /-- MODEL'S OWN: what the environment pulls at the coming steps, next first; past its end a free value
  (notes/assumptions/4.md) -/
  env : List Pull
  /-- MODEL'S OWN: the number of steps taken, the index of the free values -/
  now : Nat
  /-- MODEL'S OWN: the record of the steps taken, NEWEST FIRST (notes/assumptions/7.md) -/
  trace : List Entry
  deriving DecidableEq, Repr

/-- Why the machine can stop. No fault of the spec: R200 says the block has none. Each of these is raised only in a
state that no run reaches (`Sys2Proof.Safety`), so each is safe. -/
inductive Fault where
  /-- raised by `advance` when `BUSY = 1` and `CMD` holds no legal word; safe -/
  | noCommand
  /-- raised by `advance` when `BUSY = 1` and `upc` is not below the length of the micro-program; safe -/
  | noMicroOp
  deriving DecidableEq, Repr

/-- Why an instruction has no meaning here. Every command has one, so no arm of `exec` answers with this; safe. -/
inductive Refusal where
  /-- raised by an arm of `exec` whose command has no meaning yet (there is none); safe -/
  | notModelled (mnemonic : String)
  deriving DecidableEq, Repr

/-- The three outcomes of a step of this machine. -/
abbrev Result := Host.Outcome State Fault Refusal

/-- The state right after reset (spec/10_state.md R40): lines released, `BUSY = 0`, `ILLEGAL = 0`, `upc = 0`; the four
registers R40 gives no value ("any value, under no law") hold free values (notes/assumptions/2.md); the configuration
is the default instance. -/
def State.reset : State where
  cfg := Config.default
  drvScl := .rel
  drvSda := .rel
  shreg := Config.resetShreg 0
  ackbit := Config.resetAckbit 0
  rsp := Config.resetRsp 0
  illegal := false
  busy := false
  cmd := Config.resetCmd 0
  upc := 0
  waiting := false
  port := []
  env := []
  now := 0
  trace := []

end Sys2Proof.Machine
end

