-- ==== Sys2Proof/Machine/Flags.lean ====
section
/-! DEFINITION. The flags and what the outside reads of the state: responses, the status vector, the port outputs
(spec/10_state.md R24, R25, R30, R31; spec/30_encoding.md R83; spec/60_exceptions.md R212). -/

namespace Sys2Proof.Machine

/-- Where the response of a command comes from (R83): none, the level LREAD latched in `RSP`, the acknowledgment bit
XFER copies to `RSP`. -/
inductive Response where
  | none
  | level
  | ack
  deriving DecidableEq, Repr

/-- The response of each command, the column "response" of R81. -/
def responseOf : Instr → Response
  | .llow _ => .none
  | .lrel _ => .none
  | .lread _ => .level
  | .delay => .none
  | .start => .none
  | .stop => .none
  | .restart => .none
  | .xfer _ => .ack
  | .write _ _ => .none
  | .sendb _ _ => .none
  | .clear => .none
  | .setcur _ _ => .none
  | .init => .none

/-- `RSP` at the completion of a command: XFER does `RSP <- ACKBIT` (R138); LREAD's sample is there already (R114);
every other command leaves it unchanged (R25). -/
def rspAtCompletion (r : Response) (s : State) : Bool :=
  match r with
  | .none => s.rsp
  | .level => s.rsp
  | .ack => s.ackbit

/-- The completion signals of a command (R83). -/
def completionSignals (r : Response) (s : State) : Completion :=
  match r with
  | .none => .done
  | .level => .doneWith (rspAtCompletion .level s)
  | .ack => .doneWith (rspAtCompletion .ack s)

/-- `x_drive_low`: 1 exactly when the block drives the line low (R22). -/
def driveLow (d : Drive) : Bool := d == .low

/-- The status vector `{illegal, ack_last, sda_drive_low, scl_drive_low, busy}`, `busy` at bit 0 (R31). -/
def State.status (s : State) : BitVec 5 :=
  BitVec.ofBool s.illegal ++ BitVec.ofBool s.ackbit ++ BitVec.ofBool (driveLow s.drvSda)
    ++ BitVec.ofBool (driveLow s.drvScl) ++ BitVec.ofBool s.busy

/-- One request on the delay port: `dly_unit` (0 = microseconds, 1 = milliseconds) and the 16-bit `dly_count`
(spec/40_line_helpers.md R111, spec/60_exceptions.md R212). -/
structure DelayRequest where
  unit : Bool
  count : BitVec 16
  deriving DecidableEq, Repr

/-- The request a micro-operation makes. -/
def MicroOp.request : MicroOp → Option DelayRequest
  | .dly .us n => some ⟨false, BitVec.ofNat 16 n⟩
  | .dly .ms n => some ⟨true, BitVec.ofNat 16 n⟩
  | .set _ _ => none
  | .setTop => none
  | .smp _ _ => none
  | .ld _ => none
  | .shl => none

/-- The request pulsed in a step (`none`: `dly_req = 0`): in the first step of a `Dly` only, however long the timer
takes (R111). -/
def Entry.request (e : Entry) : Option DelayRequest :=
  match e.event with
  | .micro op => op.request
  | .asked op => op.request
  | .pending _ => none
  | .answered _ => none
  | .accepted _ => none
  | .illegal _ => none
  | .idle => none
  | .rst => none

/-- The output ports of R212. -/
structure Outputs where
  cmdReady : Bool
  done : Bool
  rspValid : Bool
  rspData : Bool
  busy : Bool
  ackLast : Bool
  illegal : Bool
  sclDriveLow : Bool
  sdaDriveLow : Bool
  dlyReq : Option DelayRequest
  deriving DecidableEq, Repr

/-- `done` and `rsp_valid` of a step. -/
def Completion.pulses : Completion → Bool × Bool
  | .none => (false, false)
  | .done => (true, false)
  | .doneWith _ => (true, true)

/-- The outputs after the newest step: levels are functions of the registers, `done`, `rsp_valid` and `dly_req` are
pulses of that step. -/
def State.outputs (s : State) : Outputs where
  cmdReady := !s.busy
  done := (s.trace.head?.map fun e => e.completion.pulses.1).getD false
  rspValid := (s.trace.head?.map fun e => e.completion.pulses.2).getD false
  rspData := s.rsp
  busy := s.busy
  ackLast := s.ackbit
  illegal := s.illegal
  sclDriveLow := driveLow s.drvScl
  sdaDriveLow := driveLow s.drvSda
  dlyReq := (s.trace.head?.map Entry.request).getD none

end Sys2Proof.Machine
end

