-- ==== Sys2Proof/Machine/Operands.lean ====
section
/-! DEFINITION. Every byte the block composes from an operand: line states of bits, the address byte, the nibble bytes
and the cursor byte (spec/30_encoding.md R85, R86, R89 to R95). -/

namespace Sys2Proof.Machine

/-- `bitstate(b)`: a 1 is sent by releasing the data line, a 0 by driving it low (R86). -/
def bitstate (b : Bool) : Drive := if b then .rel else .low

/-- `abyte = ((addr << 1) & 0xFE) | 0`: the address with direction bit 0, "for write" (R85, R161). -/
def addressByte (addr : BusAddr) : Byte := ((addr.zeroExtend 8 <<< 1) &&& 0xFE#8) ||| 0#8

/-- `rs(m)`: `BIT_RS` when `m = MODE_CHARACTER`, else 0 (R92; a mode is one of the two, R82). -/
def registerSelect (c : Config) (m : Mode) : Byte := if m = c.modeCharacter then c.bitRs else 0#8

/-- `hi = rs(m) | (v & 0xF0) | BIT_BL` (R89). -/
def highNibbleByte (c : Config) (m : Mode) (v : Byte) : Byte :=
  registerSelect c m ||| (v &&& 0xF0#8) ||| c.bitBl

/-- `lo = rs(m) | ((v << 4) & 0xF0) | BIT_BL` (R89). -/
def lowNibbleByte (c : Config) (m : Mode) (v : Byte) : Byte :=
  registerSelect c m ||| ((v <<< 4) &&& 0xF0#8) ||| c.bitBl

/-- The nibble byte with the enable bit set: `n | BIT_EN` (R93, R171). -/
def enableSet (c : Config) (n : Byte) : Byte := n ||| c.bitEn

/-- The nibble byte with the enable bit cleared: `n & ~BIT_EN` (R93, R171). -/
def enableClear (c : Config) (n : Byte) : Byte := n &&& ~~~c.bitEn

/-- `cbyte(line, column)`: the DDRAM command byte of a cursor position (R95). -/
def cursorByte (c : Config) : DispLine → BitVec 4 → Byte
  | .line0, column => c.ddramLine0 + column.zeroExtend 8
  | .line1, column => c.ddramLine1 + column.zeroExtend 8

/-- `LCD_ENTRYMODESET | LCD_ENTRYLEFT` (R94). -/
def entryModeByte (c : Config) : Byte := c.lcdEntryModeSet ||| c.lcdEntryLeft

/-- `LCD_FUNCTIONSET | LCD_2LINE` (R94). -/
def functionSetByte (c : Config) : Byte := c.lcdFunctionSet ||| c.lcd2Line

/-- `LCD_DISPLAYCONTROL | LCD_DISPLAYON` (R94). -/
def displayOnByte (c : Config) : Byte := c.lcdDisplayControl ||| c.lcdDisplayOn

end Sys2Proof.Machine
end

