-- ==== Sys2Proof/Machine/MicroPrograms.lean ====
section
/-! DEFINITION. The micro-program of every command, from the leaves up: line helpers (spec/40_line_helpers.md), bus
engine (spec/41_bus_engine.md), bus transaction (spec/42_bus_transaction.md), display controller driver
(spec/43_display_controller.md). A micro-program depends on the word and the configuration only (spec/10_state.md
R28). -/

namespace Sys2Proof.Machine

/-- `D = Dly(US, T_BUS_US)`, the source's `delay()` (R115). -/
def busDelay (c : Config) : MicroOp := .dly .us c.tBusUs

/-- `Dly(US, T_STROBE_US)`, the settle delay of a strobe (R171). -/
def strobeDelay (c : Config) : MicroOp := .dly .us c.tStrobeUs

/-- `Dly(MS, T_CLEAR_MS)`, the settle delay of a clear (R176). -/
def clearDelay (c : Config) : MicroOp := .dly .ms c.tClearMs

/-- It is a `Dly`. -/
def MicroOp.isDly : MicroOp → Bool
  | .dly _ _ => true
  | .set _ _ => false
  | .setTop => false
  | .smp _ _ => false
  | .ld _ => false
  | .shl => false

/-- LLOW: `[Set(L, LOW)]` (R112). -/
def uLlow (l : Line) : List MicroOp := [.set l .low]

/-- LREL: `[Set(L, REL)]` (R113). -/
def uLrel (l : Line) : List MicroOp := [.set l .rel]

/-- LREAD: `[Smp(L) -> RSP]` (R114). -/
def uLread (l : Line) : List MicroOp := [.smp l .rsp]

/-- DELAY: `[D]` (R115). -/
def uDelay (c : Config) : List MicroOp := [busDelay c]

/-- START: clock released, data driven low, clock driven low, a bus delay after each (R131, R132). -/
def uStart (c : Config) : List MicroOp :=
  [.set .scl .rel, busDelay c, .set .sda .low, busDelay c, .set .scl .low, busDelay c]

/-- STOP, the literal sequence: clock released, then data released (R134). -/
def uStopLiteral (c : Config) : List MicroOp :=
  [.set .scl .rel, busDelay c, .set .sda .rel, busDelay c]

/-- STOP: the literal sequence, with data driven low first when `STOP_SDA_LOW_FIRST` (R134, R135). -/
def uStop (c : Config) : List MicroOp :=
  if c.stopSdaLowFirst then [.set .sda .low, busDelay c] ++ uStopLiteral c else uStopLiteral c

/-- RESTART: "release clock, delay, drive data low, delay, drive clock low, delay" (R137). -/
def uRestart (c : Config) : List MicroOp :=
  [.set .scl .rel, busDelay c, .set .sda .low, busDelay c, .set .scl .low, busDelay c]

/-- The bit phase, once per bit (R139). -/
def uBit (c : Config) : List MicroOp :=
  [.setTop, .set .scl .rel, busDelay c, .set .scl .low, busDelay c, .shl]

/-- The acknowledge phase (R140). -/
def uAck (c : Config) : List MicroOp :=
  [.set .sda .rel, .set .scl .rel, busDelay c, .smp .sda .ackbit, .set .scl .low]

/-- `rep(n, l)`: `l` joined to itself `n` times (spec/00_scope.md R9). -/
def rep : Nat → List MicroOp → List MicroOp
  | 0, _ => []
  | n + 1, l => l ++ rep n l

/-- XFER: `[Ld(v)] ++ rep(8, uBIT) ++ uACK` (R138). -/
def uXfer (c : Config) (v : Byte) : List MicroOp := [.ld v] ++ rep 8 (uBit c) ++ uAck c

/-- WRITE: start, address byte, payload byte, stop (R160). -/
def uWrite (c : Config) (addr : BusAddr) (payload : Byte) : List MicroOp :=
  uStart c ++ uXfer c (addressByte addr) ++ uXfer c payload ++ uStop c

/-- One WRITE to the configured target and its settle delay (R171). -/
def uStrobeWrite (c : Config) (n : Byte) : List MicroOp := uWrite c c.addr n ++ [strobeDelay c]

/-- The nibble group: the nibble byte with enable low, high, low (R171). -/
def uNib (c : Config) (n : Byte) : List MicroOp :=
  uStrobeWrite c n ++ uStrobeWrite c (enableSet c n) ++ uStrobeWrite c (enableClear c n)

/-- SENDB: the high nibble group, then the low one (R170). -/
def uSendb (c : Config) (m : Mode) (v : Byte) : List MicroOp :=
  uNib c (highNibbleByte c m v) ++ uNib c (lowNibbleByte c m v)

/-- CLEAR: the clear command, then the clear settle delay (R176). -/
def uClear (c : Config) : List MicroOp := uSendb c c.modeCommand c.lcdClearDisplay ++ [clearDelay c]

/-- SETCUR: the cursor byte as a command (R178). -/
def uSetcur (c : Config) (line : DispLine) (column : BitVec 4) : List MicroOp :=
  uSendb c c.modeCommand (cursorByte c line column)

/-- INIT: the initialization handshake, six steps, eight sends (R180, R181, R184). -/
def uInit (c : Config) : List MicroOp :=
  uSendb c c.modeCommand 0x03#8 ++ uSendb c c.modeCommand 0x03#8 ++ uSendb c c.modeCommand 0x03#8
  ++ uSendb c c.modeCommand 0x02#8
  ++ uSendb c c.modeCommand (entryModeByte c)
  ++ uSendb c c.modeCommand (functionSetByte c)
  ++ uSendb c c.modeCommand (displayOnByte c)
  ++ uClear c

/-- `uprog(CMD)`: the micro-program of a command (R28). -/
def uprog (c : Config) : Instr → List MicroOp
  | .llow l => uLlow l
  | .lrel l => uLrel l
  | .lread l => uLread l
  | .delay => uDelay c
  | .start => uStart c
  | .stop => uStop c
  | .restart => uRestart c
  | .xfer v => uXfer c v
  | .write addr payload => uWrite c addr payload
  | .sendb m v => uSendb c m v
  | .clear => uClear c
  | .setcur line column => uSetcur c line column
  | .init => uInit c

end Sys2Proof.Machine
end

