-- ==== Sys2Proof/Machine/Ops.lean ====
section
/-! DEFINITION. The named operations on the state: the lines, the micro-operations (spec/40_line_helpers.md R110), the
acceptance and the completion of a command (spec/10_state.md R28), the block's one exception-like event `raise
Illegal(w)` (spec/60_exceptions.md R203), reset (spec/70_reset_and_hazards.md R230, R232), and the run of a whole
command. There is no trap entry and no return (R207), so `raiseIllegal` saves nothing and has no return beside it. -/

namespace Sys2Proof.Machine

/-- What the environment pulls in this step: the head of `env`, or past its end a free value
(spec/20_memory.md R50; notes/assumptions/4.md). -/
def State.pull (s : State) : Pull :=
  match s.env with
  | p :: _ => p
  | [] => ⟨Config.freePullScl s.now, Config.freePullSda s.now⟩

/-- What the environment pulls `k` steps from now. -/
def State.pullAfter (s : State) (k : Nat) : Pull :=
  match s.env.drop k with
  | p :: _ => p
  | [] => ⟨Config.freePullScl (s.now + k), Config.freePullSda (s.now + k)⟩

/-- `DRV[L]`. -/
def State.drv (s : State) : Line → Drive
  | .scl => s.drvScl
  | .sda => s.drvSda

/-- `DRV[L] <- d`. -/
def State.setDrv (s : State) (l : Line) (d : Drive) : State :=
  match l with
  | .scl => { s with drvScl := d }
  | .sda => { s with drvSda := d }

/-- The pull on one line. -/
def Pull.on (p : Pull) : Line → Bool
  | .scl => p.scl
  | .sda => p.sda

/-- `Level(L)`, `true` = high: low when the block drives the line low or another device pulls it, high otherwise
(R50, spec/00_scope.md R12). -/
def State.level (s : State) (l : Line) : Bool := !(driveLow (s.drv l) || s.pull.on l)

/-- `SHREG <- v`. -/
def State.setShreg (s : State) (v : Byte) : State := { s with shreg := v }

/-- `R <- b` for the two registers a sample goes to. -/
def State.setSample (s : State) (r : SampleReg) (b : Bool) : State :=
  match r with
  | .ackbit => { s with ackbit := b }
  | .rsp => { s with rsp := b }

/-- The pads in this step (R22, R50). -/
def State.pads (s : State) : Pads := ⟨s.drvScl, s.drvSda, s.level .scl, s.level .sda⟩

/-- The end of one step: its entry is recorded with the pads as the step left them, and the next step's environment
comes up. -/
def State.endStep (s : State) (e : Event) : State :=
  { s with env := s.env.tail, now := s.now + 1, trace := ⟨e, s.pads, .none⟩ :: s.trace }

/-- `upc <- upc + 1`; no delay request is outstanding at the next micro-operation. -/
def State.nextOp (s : State) : State := { s with upc := s.upc + 1, waiting := false }

/-- What a micro-operation does to the registers (R110). A `Dly` changes none: it waits for the timer's answer
(R111, `awaitTimer`) and is complete at it. -/
def State.effect (s : State) : MicroOp → State
  | .set l d => s.setDrv l d
  | .setTop => s.setDrv .sda (bitstate (s.shreg.getLsbD 7))
  | .dly _ _ => s
  | .smp l r => s.setSample r (s.level l)
  | .ld v => s.setShreg v
  | .shl => s.setShreg (s.shreg <<< 1)

/-- One step of the running command: the micro-operation, then `upc <- upc + 1` (R28). -/
def runOp (op : MicroOp) (s : State) : State := ((s.effect op).nextOp).endStep (.micro op)

/-- The step of a busy block in which a micro-operation is complete: as `runOp`, but that a `Dly` asked in an earlier
step is recorded as answered, not as asked again (R111). -/
def finishOp (op : MicroOp) (s : State) : State :=
  ((s.effect op).nextOp).endStep (if s.waiting && op.isDly then .answered op else .micro op)

/-- The step of a busy block in which a `Dly` has no answer: nothing happens but the request, in its first step
(R111). -/
def awaitTimer (op : MicroOp) (s : State) : State :=
  { s with waiting := true }.endStep (if s.waiting then .pending op else .asked op)

/-- A list of micro-operations, in list order, one per step (spec/00_scope.md R11). -/
def runOps : List MicroOp → State → State
  | [], s => s
  | op :: ops, s => runOps ops (runOp op s)

/-- `CMD <- w`, `upc <- 0`, `BUSY <- 1` (R28). -/
def State.latch (s : State) (w : CmdWord) : State := { s with cmd := w, upc := 0, busy := true, waiting := false }

/-- The step that accepts a legal word (R28). -/
def accept (w : CmdWord) (s : State) : State := (s.latch w).endStep (.accepted w)

/-- Put the completion signals on the newest entry of the record. -/
def markCompletion (c : Completion) : List Entry → List Entry
  | [] => []
  | e :: es => { e with completion := c } :: es

/-- Completion, in the step of the last micro-operation: `BUSY <- 0`, `RSP` and the signals as the command's response
says (R28, R25, R83). -/
def complete (r : Response) (s : State) : State :=
  { s with
    busy := false
    rsp := rspAtCompletion r s
    trace := markCompletion (completionSignals r s) s.trace }

/-- `raise Illegal(w)`: `ILLEGAL <- 1` and nothing else; the word is not stored, no micro-operation runs, `done` is
not pulsed (R203). -/
def raiseIllegal (w : CmdWord) (s : State) : State := { s with illegal := true }.endStep (.illegal w)

/-- The port after an input has been taken from it. -/
def State.setPort (s : State) (p : List PortInput) : State := { s with port := p }

/-- A step in which the block is idle and no word is presented. -/
def idleStep (s : State) : State := s.endStep .idle

/-- `rst`: the registers of R40; the running command is abandoned (R232); the configuration keeps its values (R230).
The registers R40 leaves unspecified take fresh free values (notes/assumptions/2.md). -/
def assertReset (s : State) : State :=
  { s with
    drvScl := .rel
    drvSda := .rel
    shreg := Config.resetShreg (s.now + 1)
    ackbit := Config.resetAckbit (s.now + 1)
    rsp := Config.resetRsp (s.now + 1)
    illegal := false
    busy := false
    cmd := Config.resetCmd (s.now + 1)
    upc := 0
    waiting := false }.endStep .rst

/-- One step of a busy block (R28), given the timer's answer `dly_done` in it: the micro-operation `uprog(CMD)[upc]`,
and the completion if it was the last; a `Dly` without an answer holds `upc` (R111). A busy state without a legal
`CMD`, or with `upc` past the end, is a fault by name. -/
def advance (dlyDone : Bool) (s : State) : Result :=
  match decode s.cmd with
  | .error _ => .fault .noCommand
  | .ok i =>
    match (uprog s.cfg i).drop s.upc with
    | [] => .fault .noMicroOp
    | op :: rest =>
      if op.isDly && !dlyDone then .next (awaitTimer op s)
      else if rest.isEmpty then .next (complete (responseOf i) (finishOp op s))
      else .next (finishOp op s)

/-- A whole command with the given micro-program, from acceptance to completion, every delay request answered (R111,
R216; notes/assumptions/5.md). Presented while `BUSY = 1` the word is not accepted and the running command goes on
(R29, R206). -/
def runCommand (i : Instr) (ops : List MicroOp) (s : State) : Result :=
  if s.busy then advance true s
  else .next (complete (responseOf i) (runOps ops (accept (encode i) s)))

/-- The record in time order, oldest first. -/
def State.history (s : State) : List Entry := s.trace.reverse

end Sys2Proof.Machine
end

