-- ==== Sys2Proof/Machine/BusEngine.lean ====
section
/-! DEFINITION. The software bus engine: START, STOP, RESTART, XFER (spec/41_bus_engine.md R131 to R140). The engine
commands check nothing on entry (R145) and nothing in them can fail or wait on the bus (R146). -/

namespace Sys2Proof.Machine

/-- START, the start sequence (R131). -/
def execStart (s : State) : Result := runCommand .start (uStart s.cfg) s

/-- STOP, the stop sequence (R134, R135). -/
def execStop (s : State) : Result := runCommand .stop (uStop s.cfg) s

/-- RESTART, the repeated-start sequence (R137). -/
def execRestart (s : State) : Result := runCommand .restart (uRestart s.cfg) s

/-- XFER, the byte transfer; the acknowledgment is sampled, kept and answered, never acted on (R138, R141). -/
def execXfer (v : Byte) (s : State) : Result := runCommand (.xfer v) (uXfer s.cfg v) s

end Sys2Proof.Machine
end

