-- ==== Sys2Proof/Machine/BusTransaction.lean ====
section
/-! DEFINITION. The bus transaction WRITE (spec/42_bus_transaction.md R160), the block's only store primitive:
`MemWrite(addr, 1, v)` of spec/00_scope.md R10. -/

namespace Sys2Proof.Machine

/-- WRITE, one addressed write transaction; both acknowledgments are ignored (R160, R163). -/
def execWrite (addr : BusAddr) (payload : Byte) (s : State) : Result :=
  runCommand (.write addr payload) (uWrite s.cfg addr payload) s

end Sys2Proof.Machine
end

