-- ==== Sys2Proof/Machine/DisplayController.lean ====
section
/-! DEFINITION. The display controller driver: SENDB, CLEAR, SETCUR, INIT (spec/43_display_controller.md R170 to R187).
Every command is a list of WRITEs to the configured `ADDR` with settle delays between them; no cursor is stored
(spec/10_state.md R33) and nothing records that INIT ran (R186). -/

namespace Sys2Proof.Machine

/-- SENDB, one 8-bit value as two nibble groups (R170). -/
def execSendb (m : Mode) (v : Byte) (s : State) : Result := runCommand (.sendb m v) (uSendb s.cfg m v) s

/-- CLEAR, the clear command and its settle delay (R176). -/
def execClear (s : State) : Result := runCommand .clear (uClear s.cfg) s

/-- SETCUR, the cursor byte as a command (R178). -/
def execSetcur (line : DispLine) (column : BitVec 4) (s : State) : Result :=
  runCommand (.setcur line column) (uSetcur s.cfg line column) s

/-- INIT, the initialization handshake (R180). -/
def execInit (s : State) : Result := runCommand .init (uInit s.cfg) s

end Sys2Proof.Machine
end

