-- ==== Sys2Proof/Machine/LineHelpers.lean ====
section
/-! DEFINITION. The line-state helpers and the bus delay: LLOW, LREL, LREAD, DELAY (spec/40_line_helpers.md R112 to
R115). -/

namespace Sys2Proof.Machine

/-- LLOW, drive a line low (R112). -/
def execLlow (l : Line) (s : State) : Result := runCommand (.llow l) (uLlow l) s

/-- LREL, release a line (R113). -/
def execLrel (l : Line) (s : State) : Result := runCommand (.lrel l) (uLrel l) s

/-- LREAD, read a line level into `RSP`, with a response (R114). -/
def execLread (l : Line) (s : State) : Result := runCommand (.lread l) (uLread l) s

/-- DELAY, one bus delay (R115). -/
def execDelay (s : State) : Result := runCommand .delay (uDelay s.cfg) s

end Sys2Proof.Machine
end

