-- ==== Sys2Proof/Machine/Dispatch.lean ====
section
/-! DEFINITION. The dispatch: one arm per command, each one call of its meaning. -/

namespace Sys2Proof.Machine

def exec (i : Instr) (s : State) : Host.Outcome State Fault Refusal :=
  match i with
  | .llow l => Sys2Proof.Machine.execLlow l s
  | .lrel l => Sys2Proof.Machine.execLrel l s
  | .lread l => Sys2Proof.Machine.execLread l s
  | .delay => Sys2Proof.Machine.execDelay s
  | .start => Sys2Proof.Machine.execStart s
  | .stop => Sys2Proof.Machine.execStop s
  | .restart => Sys2Proof.Machine.execRestart s
  | .xfer v => Sys2Proof.Machine.execXfer v s
  | .write addr payload => Sys2Proof.Machine.execWrite addr payload s
  | .sendb m v => Sys2Proof.Machine.execSendb m v s
  | .clear => Sys2Proof.Machine.execClear s
  | .setcur line column => Sys2Proof.Machine.execSetcur line column s
  | .init => Sys2Proof.Machine.execInit s

end Sys2Proof.Machine
end

