-- ==== Sys2Proof/Machine/Fetch.lean ====
section
/-! DEFINITION. What a step finds at the command port (spec/10_state.md R28, R29; spec/60_exceptions.md R206). The block
fetches no instruction from a memory (R27, spec/20_memory.md R67): a word is presented, and sampled once, at
acceptance. -/

namespace Sys2Proof.Machine

/-- What the port asks of one step: run a whole command from a state, or a step that is settled already. -/
inductive Fetched where
  /-- the host's blocking call of a legal command, the block idle: `exec` runs it -/
  | run (i : Instr) (s : State)
  /-- anything else: its outcome -/
  | settled (o : Result)

/-- One step without a word presented: a micro-operation of the running command, or nothing. `dlyDone` is the timer's
answer in this step; an idle block does not look at it. -/
def quietStep (dlyDone : Bool) (s : State) : Result := if s.busy then advance dlyDone s else .next (idleStep s)

/-- One step with `cmd_valid = 1`: looked at only when the block is idle; then a legal word is accepted and an illegal
one raises `Illegal` (R28, R29, R206). -/
def presentStep (w : CmdWord) (dlyDone : Bool) (s : State) : Result :=
  if s.busy then advance dlyDone s
  else
    match decode w with
    | .ok _ => .next (accept w s)
    | .error _ => .next (raiseIllegal w s)

/-- The host's blocking call when the block is idle: a legal command is run, an illegal word raises `Illegal`. -/
def callStep (w : CmdWord) (s : State) : Fetched :=
  match decode w with
  | .ok i => .run i s
  | .error _ => .settled (.next (raiseIllegal w s))

/-- Take the next input of the port. A called word is held while the block is busy (spec/60_exceptions.md R217), so it
leaves the port only when it is looked at; every other input lasts one step. Past the end of the port nothing is
presented and the timer answers, as it does while a called word is held (spec/60_exceptions.md R216). -/
def fetch (s : State) : Fetched :=
  match s.port with
  | [] => .settled (quietStep true s)
  | .quiet d :: rest => .settled (quietStep d (s.setPort rest))
  | .present w d :: rest => .settled (presentStep w d (s.setPort rest))
  | .rst :: rest => .settled (.next (assertReset (s.setPort rest)))
  | .call w :: rest => if s.busy then .settled (advance true s) else callStep w (s.setPort rest)

/-- `dly_done` in the next step, as `fetch` takes it from the port. -/
def State.timerAnswers (s : State) : Bool :=
  match s.port with
  | [] => true
  | .quiet d :: _ => d
  | .present _ d :: _ => d
  | .rst :: _ => true
  | .call _ :: _ => true

/-- Put a word at the head of the port as a blocking call of an idle block: the state in which the next step runs
exactly it. `BUSY` is cleared because a busy block looks at no word (R29). -/
def placeCall (s : State) (w : CmdWord) : State := { s with busy := false, port := .call w :: s.port }

end Sys2Proof.Machine
end

