-- ==== Sys2Proof/Machine/Step.lean ====
section
/-! DEFINITION. One step of the machine, and the placing of a table word where the next step takes it. -/

namespace Sys2Proof.Machine

/-- One step: what the port asks (`fetch`), a called command through `exec`. -/
def step (s : State) : Host.Outcome State Fault Refusal :=
  match fetch s with
  | .run i t => exec i t
  | .settled o => o

/-- `s` with a table word presented as the host's next blocking call; a command word has one length of 20 bits
(spec/30_encoding.md R80), so `nbits` says nothing more. -/
def State.withFetchWord (s : State) (_nbits w : Nat) : State := placeCall s (BitVec.ofNat 20 w)

end Sys2Proof.Machine
end

