-- ==== Sys2Proof/Machine/Pads.lean ====
section
/-! DEFINITION. The GPIO capabilities behind the pads (spec/40_line_helpers.md R116, spec/70_reset_and_hazards.md R231):
which calls of the surrounding chip's four capabilities each micro-operation and reset make, and what they do to a
pad. The pads hold no state of their own: a pad is a function of its driver (spec/10_state.md R22). -/

namespace Sys2Proof.Machine

/-- Direction of a GPIO pad. -/
inductive PadDir where
  | input
  | output
  deriving DecidableEq, Repr

/-- One GPIO pad: direction, output level (`true` = high), passive pull-up. -/
structure GpioPad where
  dir : PadDir
  outHigh : Bool
  pullUp : Bool
  deriving DecidableEq, Repr

/-- A call of one of the four capabilities "{setDirection, writeLevel, readLevel, enablePullUp}" (R116). -/
inductive GpioCall where
  | setDirection (l : Line) (d : PadDir)
  | writeLevel (l : Line) (high : Bool)
  | readLevel (l : Line)
  | enablePullUp (l : Line)
  deriving DecidableEq, Repr

/-- The two pads. -/
structure GpioPads where
  scl : GpioPad
  sda : GpioPad
  deriving DecidableEq, Repr

/-- Change one pad. -/
def GpioPads.update (p : GpioPads) (l : Line) (f : GpioPad → GpioPad) : GpioPads :=
  match l with
  | .scl => { p with scl := f p.scl }
  | .sda => { p with sda := f p.sda }

/-- What a capability call does to the pads; a read changes nothing. -/
def GpioCall.apply (p : GpioPads) : GpioCall → GpioPads
  | .setDirection l d => p.update l fun g => { g with dir := d }
  | .writeLevel l b => p.update l fun g => { g with outHigh := b }
  | .readLevel _ => p
  | .enablePullUp l => p.update l fun g => { g with pullUp := true }

/-- Apply calls in order. -/
def applyCalls (calls : List GpioCall) (p : GpioPads) : GpioPads := calls.foldl GpioCall.apply p

/-- The pad a driver value stands for: low is output with level low, released is input; the pull-up is enabled and the
output level is low in both (R22, R116). -/
def padOf : Drive → GpioPad
  | .low => ⟨.output, false, true⟩
  | .rel => ⟨.input, false, true⟩

/-- The calls that set a driver: `Set(L, LOW)` is `setDirection(L, output)`, `Set(L, REL)` is `setDirection(L, input)`
(R116). -/
def setCalls (l : Line) : Drive → List GpioCall
  | .low => [.setDirection l .output]
  | .rel => [.setDirection l .input]

/-- The calls of a micro-operation, given `SHREG` (which only the data set-up of a bit phase reads). -/
def opCalls (shreg : Byte) : MicroOp → List GpioCall
  | .set l d => setCalls l d
  | .setTop => setCalls .sda (bitstate (shreg.getLsbD 7))
  | .dly _ _ => []
  | .smp l _ => [.readLevel l]
  | .ld _ => []
  | .shl => []

/-- Reset, for each pad: `enablePullUp`, then `writeLevel(low)`, then `setDirection(input)` (R116, R231). DESIGN CHOICE
(notes/assumptions/12.md): the spec gives the order within a pad only; that the clock pad's three calls come before the
data pad's is the model's choice. -/
def resetCalls : List GpioCall :=
  [.enablePullUp .scl, .writeLevel .scl false, .setDirection .scl .input,
   .enablePullUp .sda, .writeLevel .sda false, .setDirection .sda .input]

/-- A pad sources current to drive its line high. -/
def GpioPad.drivesHigh (g : GpioPad) : Bool := g.dir == .output && g.outHigh

end Sys2Proof.Machine
end

