-- ==== Sys2Proof/Machine/Timing.lean ====
section
/-! DEFINITION. What a micro-program asks of the external timer, and counts of its micro-operations
(spec/70_reset_and_hazards.md R255, R256). No step reads any of it. -/

namespace Sys2Proof.Machine

/-- The minimum time one micro-operation asks of the timer, in microseconds. -/
def MicroOp.minUs : MicroOp → Nat
  | .dly .us n => n
  | .dly .ms n => 1000 * n
  | .set _ _ => 0
  | .setTop => 0
  | .smp _ _ => 0
  | .ld _ => 0
  | .shl => 0

/-- The minimum time a micro-program asks of the timer, in microseconds (R255). -/
def minTimeUs (ops : List MicroOp) : Nat := (ops.map MicroOp.minUs).sum

/-- It is a `Set` (the data set-up of a bit phase is one). -/
def MicroOp.isSet : MicroOp → Bool
  | .set _ _ => true
  | .setTop => true
  | .dly _ _ => false
  | .smp _ _ => false
  | .ld _ => false
  | .shl => false

/-- It is a `Smp`. -/
def MicroOp.isSmp : MicroOp → Bool
  | .smp _ _ => true
  | .set _ _ => false
  | .setTop => false
  | .dly _ _ => false
  | .ld _ => false
  | .shl => false

/-- The byte a micro-operation loads into `SHREG`. -/
def MicroOp.loaded : MicroOp → Option Byte
  | .ld v => some v
  | .set _ _ => none
  | .setTop => none
  | .dly _ _ => none
  | .smp _ _ => none
  | .shl => none

/-- The bytes a micro-program transfers on the bus, in order: each transfer begins with its `Ld` (R138). -/
def bytesSent (ops : List MicroOp) : List Byte := ops.filterMap MicroOp.loaded

/-- The delay requests of a micro-program, in order. -/
def delaysAsked (ops : List MicroOp) : List (TimeUnit × Nat) :=
  ops.filterMap fun op =>
    match op with
    | .dly u n => some (u, n)
    | .set _ _ => none
    | .setTop => none
    | .smp _ _ => none
    | .ld _ => none
    | .shl => none

end Sys2Proof.Machine
end

