-- ==== Sys2Proof/Machine/Wire.lean ====
section
/-! DEFINITION. What the sequence of pad levels means on the wire (spec/20_memory.md R52) and to the reference display
side of spec/95_test_vectors.md part 2. Functions of the record, no state of the block: the expander and the
controller are external (spec/00_scope.md R5(g); notes/assumptions/10.md). -/

namespace Sys2Proof.Machine

/-- A wire-level event (R52). -/
inductive WireEvent where
  /-- a start condition -/
  | start
  /-- a stop condition -/
  | stop
  /-- a data bit -/
  | bit (b : Bool)
  deriving DecidableEq, Repr

/-- A start condition between two consecutive steps: `Level(SDA)` goes from 1 to 0 while `Level(SCL) = 1` (R52). -/
def isStartCondition (p q : Pads) : Bool := p.sclIn && q.sclIn && p.sdaIn && !q.sdaIn

/-- A stop condition between two consecutive steps: `Level(SDA)` goes from 0 to 1 while `Level(SCL) = 1` (R52). -/
def isStopCondition (p q : Pads) : Bool := p.sclIn && q.sclIn && !p.sdaIn && q.sdaIn

/-- The wire events of a sequence of pads, from the pads before it. `held` is the data level since the last rise of the
clock, if it has not changed: it becomes a data bit at the next fall (R52). -/
def wireFrom (p : Pads) (held : Option Bool) : List Pads → List WireEvent
  | [] => []
  | q :: rest =>
    if isStartCondition p q then .start :: wireFrom q none rest
    else if isStopCondition p q then .stop :: wireFrom q none rest
    else if p.sclIn && q.sclIn then wireFrom q held rest
    else if q.sclIn then wireFrom q (some q.sdaIn) rest
    else if p.sclIn then (held.map WireEvent.bit).toList ++ wireFrom q none rest
    else wireFrom q none rest

/-- The pads of a record, in time order. -/
def padsOf (entries : List Entry) : List Pads := entries.map Entry.pads

/-- The wire events of a record in time order, from the pads before it. -/
def wireEvents (before : Pads) (entries : List Entry) : List WireEvent := wireFrom before none (padsOf entries)

/-- The byte of eight bits, most significant first (R57). -/
def byteOfBits (bits : List Bool) : Byte :=
  bits.foldl (fun acc b => (acc <<< 1) ||| (BitVec.ofBool b).zeroExtend 8) 0#8

/-- A frame of one transaction (spec/30_encoding.md R84): address byte, first acknowledgment slot, payload byte, second
slot (`true` = line high). -/
structure Frame where
  addressByte : Byte
  ack1 : Bool
  payload : Byte
  ack2 : Bool
  deriving DecidableEq, Repr

/-- The frames a receiver sees: eighteen data bits after a start condition; a stop condition ends a frame. `bits` holds
the bits since the last start condition, `none` outside a frame. -/
def framesFrom (bits : Option (List Bool)) : List WireEvent → List Frame
  | [] => []
  | .start :: rest => framesFrom (some []) rest
  | .stop :: rest => framesFrom none rest
  | .bit b :: rest =>
    match bits with
    | none => framesFrom none rest
    | some bs =>
      if bs.length = 17 then
        ⟨byteOfBits (bs.take 8), bs.getD 8 true, byteOfBits ((bs.drop 9).take 8), b⟩ :: framesFrom none rest
      else framesFrom (some (bs ++ [b])) rest

/-- The frames of a record, from the pads before it. -/
def frames (before : Pads) (entries : List Entry) : List Frame := framesFrom none (wireEvents before entries)

/-- The payload bytes delivered to the device whose address byte is given: the reference expander's output bytes
(spec/20_memory.md R54). -/
def expanderBytes (abyte : Byte) (fs : List Frame) : List Byte :=
  (fs.filter fun f => f.addressByte == abyte).map Frame.payload

/-- The nibble bytes the reference display side counts as delivered: three consecutive expander bytes `n`, `n | BIT_EN`,
`n` with `n & BIT_EN = 0` (spec/95_test_vectors.md part 2, R172, C7). -/
def nibblesSeen (en : Byte) : List Byte → List Byte
  | [] => []
  | n :: rest =>
    match rest with
    | m :: k :: _ =>
      if n &&& en == 0#8 && m == n ||| en && k == n then n :: nibblesSeen en rest else nibblesSeen en rest
    | _ => nibblesSeen en rest

end Sys2Proof.Machine
end

