-- ==== Sys2Proof/Safety.lean ====
section
/-! DEFINITION. The terms the statements are made in: what a step and a command answer, the invariant of the sequencer,
what a command leaves unchanged, and the record a run leaves. -/

namespace Sys2Proof.Machine

/-- The outcome is a next state, and the state has the property. -/
def Answers (o : Result) (P : State → Prop) : Prop := ∃ t, o = .next t ∧ P t

/-- The sequencer is in order: while `BUSY = 1`, `CMD` holds a legal word and `upc` is below the length of its
micro-program (spec/10_state.md R27 to R29); a delay request is outstanding only while `BUSY = 1` and the
micro-operation at `upc` is a `Dly` (spec/40_line_helpers.md R111). -/
def State.sequencerOk (s : State) : Bool :=
  if s.busy then
    match decode s.cmd with
    | .ok i =>
      match (uprog s.cfg i)[s.upc]? with
      | some op => !s.waiting || op.isDly
      | none => false
    | .error _ => false
  else !s.waiting

/-- The events of a micro-program, one per step. -/
def microEvents (ops : List MicroOp) : List Event := ops.map Event.micro

/-- The events of a record. -/
def eventsOf (entries : List Entry) : List Event := entries.map Entry.event

/-- The driver states of a record, `(DRV[SCL], DRV[SDA])` after each step. -/
def drivesOf (entries : List Entry) : List (Drive × Drive) := entries.map fun e => (e.pads.scl, e.pads.sda)

/-- The completions of a record. -/
def completionsOf (entries : List Entry) : List Completion := entries.map Entry.completion

/-- The newest `k` entries of the record, oldest first. -/
def State.newest (s : State) (k : Nat) : List Entry := (s.trace.take k).reverse

/-- What every command leaves unchanged: the configuration, `ILLEGAL`, the port; and what every command does to the
model's own fields: `k` steps of the environment used, `k` entries added to the record. -/
def CommandFrame (k : Nat) (s t : State) : Prop :=
  t.cfg = s.cfg ∧ t.illegal = s.illegal ∧ t.port = s.port ∧
  t.env = s.env.drop k ∧ t.now = s.now + k ∧ t.trace.drop k = s.trace ∧ t.trace.length = s.trace.length + k

/-- What every completed command leaves in the sequencer: `BUSY = 0`, `CMD` the command's word, `upc` the length of its
micro-program (spec/10_state.md R28), no delay request outstanding. -/
def Completed (i : Instr) (t : State) : Prop :=
  t.busy = false ∧ t.cmd = encode i ∧ t.upc = (uprog t.cfg i).length ∧ t.waiting = false

/-- The command answers a next state: it is accepted, runs its whole micro-program in order, one entry each, and
completes with the given signals in the step of its last micro-operation; the registers are left as given and
everything else is unchanged (`CommandFrame`). -/
def Completes (i : Instr) (s : State) (scl sda : Drive) (shreg : Byte) (ackbit rsp : Bool) (c : Completion) : Prop :=
  Answers (exec i s) fun t =>
    t.drvScl = scl ∧ t.drvSda = sda ∧ t.shreg = shreg ∧ t.ackbit = ackbit ∧ t.rsp = rsp ∧
    Completed i t ∧ CommandFrame ((uprog s.cfg i).length + 1) s t ∧
    eventsOf (t.newest ((uprog s.cfg i).length + 1)) = .accepted (encode i) :: microEvents (uprog s.cfg i) ∧
    completionsOf (t.newest ((uprog s.cfg i).length + 1)) = List.replicate (uprog s.cfg i).length .none ++ [c]

/-- The block's own registers (spec/10_state.md R20) and its configuration are the same in two states. The model's own
`waiting` is not one of them. -/
def SameRegisters (s t : State) : Prop :=
  t.cfg = s.cfg ∧ t.drvScl = s.drvScl ∧ t.drvSda = s.drvSda ∧ t.shreg = s.shreg ∧ t.ackbit = s.ackbit ∧
  t.rsp = s.rsp ∧ t.illegal = s.illegal ∧ t.busy = s.busy ∧ t.cmd = s.cmd ∧ t.upc = s.upc

/-- One step of the model's own record: one entry with the given event and no completion, one step of the environment. -/
def OneEntry (e : Event) (s t : State) : Prop :=
  t.env = s.env.tail ∧ t.now = s.now + 1 ∧ t.trace = ⟨e, t.trace.head?.elim s.pads Entry.pads, .none⟩ :: s.trace

/-- `o` with a function applied to its next state. -/
def mapNext (f : State → State) (o : Result) : Result :=
  match o with
  | .next s => .next (f s)
  | .fault r => .fault r
  | .refused r => .refused r

/-- The length of one WRITE: 118, or 120 with `STOP_SDA_LOW_FIRST` (spec/42_bus_transaction.md R164). -/
def writeSteps (c : Config) : Nat := if c.stopSdaLowFirst then 120 else 118

/-- The length of one SENDB: six WRITEs, each with its settle delay (spec/43_display_controller.md R175). -/
def sendbSteps (c : Config) : Nat := 6 * (writeSteps c + 1)

/-- `ACKBIT` of a state after the sample that is taken `k` steps from now with the data line released: the complement of
what the environment pulls then (spec/41_bus_engine.md R140). -/
def sampledAck (s : State) (k : Nat) : Bool := !(s.pullAfter k).sda

end Sys2Proof.Machine
end

