-- ==== Sys2Proof/Certificates/Slice0/Obligations.lean ====
section
/-! DEFINITION. The statements for the provers. Every statement quantifies over states, so over every configuration of
the instance (`State.cfg`) and every environment (`State.env` and the free values past its end). A statement about `exec`
assumes that the timer answers every delay request of the command (spec/60_exceptions.md R216, notes/assumptions/5.md);
ADelayEndsWithTheTimersAnswer says what happens until it does. -/

open Sys2Proof Sys2Proof.Machine

/-- Decoding the word of any command gives back the command, with every operand. Rests on 30_encoding.md R80, R81, R82:
the word format, the opcode map, the operand fields. -/
def Obligations.DecodeOfEncodeIsTheCommand : Prop := ∀ i : Instr, decode (encode i) = .ok i

/-- Two different words never decode to the same command. Rests on 30_encoding.md R100: no encodings that execute as
another command; 30_encoding.md R81, R82. -/
def Obligations.EncodeOfDecodedWordIsTheWord : Prop := ∀ (w : CmdWord) (i : Instr), decode w = .ok i → encode i = w

/-- The match and mask of a row select exactly the words of its command. Rests on 30_encoding.md R101: the thirteen
match/mask pairs. -/
def Obligations.TableRowsSelectTheirCommand : Prop :=
  (∀ (w : CmdWord) (i : Instr), decode w = .ok i → matchesRow w i = true) ∧
  (∀ (w : CmdWord) (i : Instr), matchesRow w i = true → ∃ j, decode w = .ok j ∧ tableRow j = tableRow i) ∧
  (∀ w : CmdWord, (∀ i, matchesRow w i = false) → ∃ e, decode w = .error e)

/-- A word is refused by the decoder exactly when its opcode or one of its reserved bits says so. Rests on
30_encoding.md R99: a command word is illegal when its op is reserved or a reserved bit is 1; 30_encoding.md R82:
the reserved bits of each command. -/
def Obligations.IllegalWordsAreTheReservedOnes : Prop :=
  ∀ (op : BitVec 4) (a b : Byte),
    (∃ e, decode (op ++ a ++ b) = .error e) ↔
      (op = 0x0#4 ∨ op = 0xE#4 ∨ op = 0xF#4) ∨
      ((op = 0x1#4 ∨ op = 0x2#4 ∨ op = 0x3#4) ∧ (a ≠ 0#8 ∨ b >>> 1 ≠ 0#8)) ∨
      ((op = 0x4#4 ∨ op = 0x5#4 ∨ op = 0x6#4 ∨ op = 0x7#4 ∨ op = 0xB#4 ∨ op = 0xD#4) ∧ (a ≠ 0#8 ∨ b ≠ 0#8)) ∨
      (op = 0x8#4 ∧ a ≠ 0#8) ∨
      (op = 0x9#4 ∧ a.getLsbD 7 = true) ∨
      (op = 0xA#4 ∧ a >>> 1 ≠ 0#8) ∨
      (op = 0xC#4 ∧ (a >>> 1 ≠ 0#8 ∨ b >>> 4 ≠ 0#8))

/-- Words written out in the spec decode to the commands the spec names. Rests on 95_test_vectors.md V10 to V20, V25 to
V28; 30_encoding.md R97. -/
def Obligations.SpecWordsDecode : Prop :=
  (decode 0x10001#20 = .ok (.llow .sda) ∧ decode 0x30000#20 = .ok (.lread .scl) ∧ decode 0x40000#20 = .ok .delay ∧
    decode 0x50000#20 = .ok .start ∧ decode 0x60000#20 = .ok .stop ∧ decode 0x70000#20 = .ok .restart ∧
    decode 0x8004E#20 = .ok (.xfer 0x4E#8) ∧ decode 0x92708#20 = .ok (.write 0x27#7 0x08#8) ∧
    decode 0xA0001#20 = .ok (.sendb Config.default.modeCommand 0x01#8) ∧
    decode 0xA0141#20 = .ok (.sendb Config.default.modeCharacter 0x41#8) ∧ decode 0xB0000#20 = .ok .clear ∧
    decode 0xC0100#20 = .ok (.setcur .line1 0#4) ∧ decode 0xD0000#20 = .ok .init) ∧
  (decode 0x10000#20 = .ok (.llow .scl) ∧ decode 0x20001#20 = .ok (.lrel .sda) ∧
    decode 0x30001#20 = .ok (.lread .sda) ∧ decode 0x800FF#20 = .ok (.xfer 0xFF#8) ∧
    decode 0x97FFF#20 = .ok (.write 0x7F#7 0xFF#8) ∧ decode 0x90000#20 = .ok (.write 0x00#7 0x00#8) ∧
    decode 0xA01FF#20 = .ok (.sendb Config.default.modeCharacter 0xFF#8) ∧
    decode 0xC010F#20 = .ok (.setcur .line1 0xF#4)) ∧
  decode 0x00000#20 = .error .reservedOpcode ∧ decode 0x98000#20 = .error .reservedBitOfA ∧
  decode 0xA0200#20 = .error .reservedBitOfA ∧ decode 0xC0010#20 = .error .reservedBitOfB ∧
  decode 0xC0200#20 = .error .reservedBitOfA

/-- The address byte holds the address in bits 7 to 1 and direction bit 0. Rests on 30_encoding.md R85: bits 7 to 1 are
addr[6:0], bit 0 is 0; 42_bus_transaction.md R161. -/
def Obligations.AddressByteLayout : Prop :=
  (∀ addr : BusAddr, (addressByte addr).extractLsb' 1 7 = addr ∧ (addressByte addr).getLsbD 0 = false) ∧
  addressByte 0x27#7 = 0x4E#8

/-- The cursor byte of every position is 0x80 or 0xC0 plus the column, with no carry. Rests on R95. -/
def Obligations.CursorByteOfEveryPosition : Prop :=
  ∀ (c : Config), c.ddramLine0 = 0x80#8 → c.ddramLine1 = 0xC0#8 → ∀ column : BitVec 4,
    cursorByte c .line0 column = 0x80#8 + column.zeroExtend 8 ∧
    cursorByte c .line1 column = 0xC0#8 + column.zeroExtend 8 ∧
    cursorByte c .line0 column = 0x80#8 ||| column.zeroExtend 8 ∧
    cursorByte c .line1 column = 0xC0#8 ||| column.zeroExtend 8

/-- The operands of SETCUR name exactly the positions of a display of two lines and sixteen columns. Rests on
20_memory.md R55, R56: 32 cursor positions; 70_reset_and_hazards.md R251: at most 16 characters fit from column 0;
00_scope.md R6: LINES, COLS. -/
def Obligations.EveryCursorPositionIsOnTheDisplay : Prop :=
  ∀ c : Config, c.lines = 2 → c.cols = 16 →
    (∀ (line : DispLine) (column : BitVec 4), c.hasPosition line column = true) ∧
    (∀ l k : Nat, l < c.lines → k < c.cols → ∃ (line : DispLine) (column : BitVec 4),
      line.number = l ∧ column.toNat = k) ∧
    c.positions = 32 ∧ ∀ column : BitVec 4, c.charactersLeft column = 16 - column.toNat

/-- Both nibble bytes of every send: data in the top four bits, backlight set, write, enable low, register select by
mode. Rests on 00_scope.md R7: the constraint on the masks; 30_encoding.md R89, R90, R91, R92;
43_display_controller.md R173, R174. -/
def Obligations.NibbleByteLayoutUnderAnyLegalMasks : Prop :=
  ∀ (c : Config) (m : Mode) (v : Byte), c.masksOk = true →
    highNibbleByte c m v &&& 0xF0#8 = v &&& 0xF0#8 ∧
    lowNibbleByte c m v &&& 0xF0#8 = (v <<< 4) &&& 0xF0#8 ∧
    ∀ n, n = highNibbleByte c m v ∨ n = lowNibbleByte c m v →
      n &&& c.bitBl = c.bitBl ∧ n &&& c.bitRw = 0#8 ∧ n &&& c.bitEn = 0#8 ∧
      n &&& c.bitRs = (if m = c.modeCharacter then c.bitRs else 0#8)

/-- The three bytes of a nibble group differ in the enable bit only, which goes low, high, low. Rests on 30_encoding.md
R93; 43_display_controller.md R171, R172. -/
def Obligations.OnlyTheEnableBitMovesInANibbleGroup : Prop :=
  ∀ (c : Config) (m : Mode) (v n : Byte), c.masksOk = true → (n = highNibbleByte c m v ∨ n = lowNibbleByte c m v) →
    enableClear c n = n ∧ enableSet c n &&& ~~~c.bitEn = n ∧ enableSet c n &&& c.bitEn = c.bitEn ∧
    n &&& c.bitEn = 0#8 ∧ c.bitEn ≠ 0#8

/-- The pad outputs are a function of the drivers, and no pad drives high. Rests on R22. -/
def Obligations.PadOutputsFollowTheDrivers : Prop :=
  (∀ s : State, (s.outputs.sclDriveLow = true ↔ s.drvScl = .low) ∧ (s.outputs.sdaDriveLow = true ↔ s.drvSda = .low)) ∧
  ∀ d : Drive, (driveLow d = false → (padOf d).dir = .input ∧ (padOf d).pullUp = true) ∧ (padOf d).drivesHigh = false

/-- The GPIO calls of every micro-operation and of reset give the pads of the drivers, and never drive high on the way.
The mapping of calls is R116's general knowledge (log entry 12, PRESUMED). Rests on 40_line_helpers.md R116;
70_reset_and_hazards.md R231; 10_state.md R21. -/
def Obligations.CapabilityCallsRealiseTheDrivers : Prop :=
  (∀ (s : State) (op : MicroOp),
    applyCalls (opCalls s.shreg op) ⟨padOf s.drvScl, padOf s.drvSda⟩
      = ⟨padOf (s.effect op).drvScl, padOf (s.effect op).drvSda⟩) ∧
  (∀ (s : State) (op : MicroOp) (k : Nat),
    let p := applyCalls ((opCalls s.shreg op).take k) ⟨padOf s.drvScl, padOf s.drvSda⟩
    p.scl.drivesHigh = false ∧ p.sda.drivesHigh = false) ∧
  (∀ (scl sda : Drive) (k : Nat),
    let p := applyCalls (resetCalls.take k) ⟨padOf scl, padOf sda⟩
    p.scl.drivesHigh = false ∧ p.sda.drivesHigh = false) ∧
  ∀ p : GpioPads, applyCalls resetCalls p = ⟨padOf .rel, padOf .rel⟩

/-- A line is low exactly when the block drives it low or another device pulls it. Rests on R50. -/
def Obligations.LevelIsWiredAnd : Prop :=
  ∀ (s : State), (∀ l : Line, s.level l = false ↔ (s.drv l = .low ∨ s.pull.on l = true)) ∧
    s.pads.sclIn = s.level .scl ∧ s.pads.sdaIn = s.level .sda

/-- What each micro-operation does to the drivers, the accumulator and the sampled registers. Rests on R110. -/
def Obligations.MicroOperationEffects : Prop :=
  ∀ s : State,
    (∀ l d, (runOp (.set l d) s).drv l = d ∧ (∀ l', l' ≠ l → (runOp (.set l d) s).drv l' = s.drv l') ∧
      (runOp (.set l d) s).shreg = s.shreg ∧ (runOp (.set l d) s).ackbit = s.ackbit ∧
      (runOp (.set l d) s).rsp = s.rsp) ∧
    ((runOp .setTop s).drvSda = (if s.shreg.getLsbD 7 then .rel else .low) ∧ (runOp .setTop s).drvScl = s.drvScl ∧
      (runOp .setTop s).shreg = s.shreg ∧ (runOp .setTop s).ackbit = s.ackbit ∧ (runOp .setTop s).rsp = s.rsp) ∧
    (∀ op, (∀ l d, op ≠ .set l d) → op ≠ .setTop →
      (runOp op s).drvScl = s.drvScl ∧ (runOp op s).drvSda = s.drvSda) ∧
    (∀ u n, (runOp (.dly u n) s).shreg = s.shreg ∧ (runOp (.dly u n) s).ackbit = s.ackbit ∧
      (runOp (.dly u n) s).rsp = s.rsp) ∧
    (∀ l, (runOp (.smp l .ackbit) s).ackbit = s.level l ∧ (runOp (.smp l .ackbit) s).rsp = s.rsp ∧
      (runOp (.smp l .rsp) s).rsp = s.level l ∧ (runOp (.smp l .rsp) s).ackbit = s.ackbit ∧
      ∀ r, (runOp (.smp l r) s).shreg = s.shreg) ∧
    (∀ v, (runOp (.ld v) s).shreg = v ∧ (runOp (.ld v) s).ackbit = s.ackbit ∧ (runOp (.ld v) s).rsp = s.rsp) ∧
    ((runOp .shl s).shreg = s.shreg <<< 1 ∧ (runOp .shl s).ackbit = s.ackbit ∧ (runOp .shl s).rsp = s.rsp)

/-- Acceptance, one micro-operation per step, and completion. Rests on R28. -/
def Obligations.SteppingOfTheBlock : Prop :=
  (∀ (s : State) (w : CmdWord) (i : Instr) (d : Bool) (rest : List PortInput), s.busy = false →
    s.port = .present w d :: rest → decode w = .ok i →
    Answers (step s) fun t => t.cmd = w ∧ t.upc = 0 ∧ t.busy = true) ∧
  (∀ (s : State) (w : CmdWord) (e : IllFormed) (d : Bool) (rest : List PortInput), s.busy = false →
    s.port = .present w d :: rest → decode w = .error e →
    Answers (step s) fun t => t.illegal = true ∧ t.busy = false) ∧
  (∀ (s : State) (i : Instr) (op : MicroOp), s.busy = true → s.port.head? ≠ some .rst →
    (op.isDly = false ∨ s.timerAnswers = true) → decode s.cmd = .ok i →
    (uprog s.cfg i)[s.upc]? = some op → s.upc + 1 < (uprog s.cfg i).length →
    Answers (step s) fun t => t.upc = s.upc + 1 ∧ t.busy = true ∧ t.outputs.done = false ∧
      t.drvScl = (s.effect op).drvScl ∧ t.drvSda = (s.effect op).drvSda ∧ t.shreg = (s.effect op).shreg ∧
      t.ackbit = (s.effect op).ackbit ∧ t.rsp = (s.effect op).rsp) ∧
  (∀ (s : State) (i : Instr) (op : MicroOp), s.busy = true → s.port.head? ≠ some .rst →
    (op.isDly = false ∨ s.timerAnswers = true) → decode s.cmd = .ok i →
    (uprog s.cfg i)[s.upc]? = some op → s.upc + 1 = (uprog s.cfg i).length →
    Answers (step s) fun t => t.upc = s.upc + 1 ∧ t.busy = false ∧ t.outputs.done = true ∧
      t.outputs.rspValid = (responseOf i != .none) ∧
      t.drvScl = (s.effect op).drvScl ∧ t.drvSda = (s.effect op).drvSda ∧ t.shreg = (s.effect op).shreg ∧
      t.ackbit = (s.effect op).ackbit ∧ t.rsp = rspAtCompletion (responseOf i) (s.effect op))

/-- A step at an idle block whose port calls a legal word is exec of the decoded command. Rests on 10_state.md R28;
60_exceptions.md R217; 92_eei_decisions.md D1 (notes/assumptions/3.md: a blocking call is one step, the choice of
the model). -/
def Obligations.AStepRunsTheDecodedCommand : Prop :=
  (∀ (s : State) (w : CmdWord) (i : Instr) (rest : List PortInput), s.busy = false → s.port = .call w :: rest →
    decode w = .ok i → step s = exec i (s.setPort rest)) ∧
  ∀ (s : State) (n w : Nat) (i : Instr), decodeTableWord n w = some i →
    step (s.withFetchWord n w) = exec i { s with busy := false }

/-- Accepting a legal word changes no line, no accumulator, no flag and no response. Rests on 10_state.md R28;
60_exceptions.md R207: a legal word changes nothing until its first micro-operation; 20_memory.md R67. -/
def Obligations.AcceptanceOnlyLatchesTheWord : Prop :=
  ∀ (s : State) (w : CmdWord) (i : Instr) (d : Bool) (rest : List PortInput), s.busy = false →
    s.port = .present w d :: rest → decode w = .ok i → Answers (step s) fun t =>
      t.cmd = w ∧ t.upc = 0 ∧ t.busy = true ∧ t.cfg = s.cfg ∧ t.drvScl = s.drvScl ∧ t.drvSda = s.drvSda ∧
      t.shreg = s.shreg ∧ t.ackbit = s.ackbit ∧ t.rsp = s.rsp ∧ t.illegal = s.illegal ∧ t.waiting = false ∧
      t.port = rest ∧ t.outputs.done = false ∧ OneEntry (.accepted w) s t

/-- While BUSY = 1 a presented word has no effect, legal or illegal, whatever the timer answers. A called word is held
(log entry 8) and the timer answers in that step (log entry 5), both the choice of the model. Rests on 10_state.md
R29: a command presented while BUSY = 1 is not accepted and has no effect; 60_exceptions.md R206, R217. -/
def Obligations.AWordPresentedWhileBusyIsNotLookedAt : Prop :=
  ∀ (s : State) (w : CmdWord) (d : Bool) (rest : List PortInput), s.busy = true →
    step (s.setPort (.present w d :: rest)) = step (s.setPort (.quiet d :: rest)) ∧
    step (s.setPort (.call w :: rest)) = step (s.setPort (.quiet true :: .call w :: rest)) ∧
    s.outputs.cmdReady = false

/-- An illegal word presented to an idle block sets ILLEGAL and changes no other register. Rests on 60_exceptions.md
R203: the effect of raise Illegal; 30_encoding.md R99; 95_test_vectors.md V20 to V28, P5. -/
def Obligations.AnIllegalWordSetsTheFlagAndNothingElse : Prop :=
  ∀ (s : State) (w : CmdWord) (e : IllFormed) (rest : List PortInput), s.busy = false →
    ((∃ d, s.port = .present w d :: rest) ∨ s.port = .call w :: rest) → decode w = .error e →
    Answers (step s) fun t =>
      t.illegal = true ∧ t.cfg = s.cfg ∧ t.drvScl = s.drvScl ∧ t.drvSda = s.drvSda ∧ t.shreg = s.shreg ∧
      t.ackbit = s.ackbit ∧ t.rsp = s.rsp ∧ t.busy = false ∧ t.cmd = s.cmd ∧ t.upc = s.upc ∧
      t.waiting = s.waiting ∧ t.port = rest ∧ t.outputs.done = false ∧ OneEntry (.illegal w) s t

/-- No step but a reset clears ILLEGAL. Rests on 10_state.md R30: only reset clears it; 60_exceptions.md R203: ILLEGAL
stays 1 until reset. -/
def Obligations.IllegalIsSticky : Prop :=
  ∀ s t : State, s.illegal = true → s.port.head? ≠ some .rst → step s = .next t → t.illegal = true

/-- ILLEGAL becomes 1 only when an idle block is given an illegal word. Rests on 10_state.md R30; 60_exceptions.md R203,
R206: the event never occurs inside a command. -/
def Obligations.OnlyAnIllegalWordSetsTheFlag : Prop :=
  ∀ s t : State, s.illegal = false → step s = .next t → t.illegal = true →
    s.busy = false ∧ ∃ w e rest, ((∃ d, s.port = .present w d :: rest) ∨ s.port = .call w :: rest) ∧
      decode w = .error e

/-- Commands run the same whatever ILLEGAL holds. Rests on 60_exceptions.md R207: the flag never blocks anything;
10_state.md R30: no command reads it. -/
def Obligations.TheIllegalFlagInfluencesNothing : Prop :=
  ∀ (i : Instr) (s : State) (b : Bool),
    exec i { s with illegal := b } = mapNext (fun t => { t with illegal := b }) (exec i s)

/-- rst releases both lines, clears BUSY, ILLEGAL and upc and keeps the configuration, in any state. Rests on
70_reset_and_hazards.md R230, R232; 10_state.md R40. -/
def Obligations.AResetStepReleasesTheBlock : Prop :=
  ∀ (s : State) (rest : List PortInput), s.port = .rst :: rest →
    Answers (step s) fun t =>
      t.drvScl = .rel ∧ t.drvSda = .rel ∧ t.busy = false ∧ t.illegal = false ∧ t.upc = 0 ∧
      t.waiting = false ∧ t.cfg = s.cfg ∧ t.port = rest ∧ t.outputs.done = false ∧ OneEntry .rst s t

/-- The state after reset: lines released, idle, no illegal word, position 0, the default configuration. Rests on
10_state.md R40; 00_scope.md R6: the default values. -/
def Obligations.ResetState : Prop :=
  State.reset.drvScl = .rel ∧ State.reset.drvSda = .rel ∧ State.reset.busy = false ∧ State.reset.illegal = false ∧
  State.reset.upc = 0 ∧ State.reset.waiting = false ∧ State.reset.outputs.cmdReady = true ∧
  State.reset.cfg.addr = 0x27#7 ∧ State.reset.cfg.pinSda = 4 ∧ State.reset.cfg.pinScl = 5 ∧
  State.reset.cfg.tBusUs = 1 ∧ State.reset.cfg.tStrobeUs = 500 ∧ 1 ≤ State.reset.cfg.tClearMs ∧
  State.reset.cfg.stopSdaLowFirst = false ∧ State.reset.cfg.modeCommand = false ∧
  State.reset.cfg.modeCharacter = true ∧ State.reset.cfg.ddramLine0 = 0x80#8 ∧ State.reset.cfg.ddramLine1 = 0xC0#8 ∧
  State.reset.cfg.lines = 2 ∧ State.reset.cfg.cols = 16 ∧ State.reset.cfg.admissible = true

/-- An idle block that is presented with nothing changes no register. Rests on 10_state.md R40: the block is idle and
waits for the first command; 60_exceptions.md R215. -/
def Obligations.AnIdleBlockWaits : Prop :=
  ∀ s : State, s.busy = false → (s.port = [] ∨ ∃ d rest, s.port = .quiet d :: rest) →
    Answers (step s) fun t => SameRegisters s t ∧ t.waiting = s.waiting ∧ t.outputs.done = false ∧
      t.port = s.port.tail

/-- Every step but a blocking call records exactly one event and rewrites none of the record. Rests on 60_exceptions.md
R206: at most one thing happens per step; 20_memory.md R64. -/
def Obligations.OneEventPerStep : Prop :=
  ∀ s t : State, (s.busy = true ∨ ∀ w rest, s.port ≠ .call w :: rest) → step s = .next t →
    (∃ e, t.trace = e :: s.trace) ∧ t.now = s.now + 1 ∧ t.env = s.env.tail

/-- Every step keeps the invariant: while BUSY = 1, CMD is legal and upc is below the length of its micro-program. Rests
on 10_state.md R27, R28, R29: CMD, upc and BUSY; 40_line_helpers.md R111: the answer to a delay request. -/
def Obligations.EveryStepKeepsTheSequencerInOrder : Prop :=
  ∀ s t : State, s.sequencerOk = true → step s = .next t → t.sequencerOk = true

/-- The sequencer is in order at reset. Rests on 10_state.md R40: BUSY = 0 after reset. -/
def Obligations.TheResetStateHasTheSequencerInOrder : Prop := State.reset.sequencerOk = true

/-- A step never faults and never refuses while the sequencer is in order, a step in which a Dly waits for the timer
included (log entry 5). Rests on 60_exceptions.md R200: no synchronous exception, no trap and no abort;
41_bus_engine.md R146: nothing in the engine can fail. -/
def Obligations.NoStepStops : Prop :=
  ∀ s : State, s.sequencerOk = true → ∃ t, step s = .next t

/-- A Dly makes one request, holds the command while the timer has no answer, and is complete at the answer. Rests on
40_line_helpers.md R111: the block pulses dly_req, then does nothing until the timer answers; complete at that
answer; 60_exceptions.md R216: eventually taken; 10_state.md R41: the answer is an input; 60_exceptions.md R212:
dly_req, dly_unit, dly_count, dly_done. -/
def Obligations.ADelayEndsWithTheTimersAnswer : Prop :=
  (∀ (s : State) (i : Instr) (u : TimeUnit) (n : Nat) (rest : List PortInput), s.busy = true →
    (s.port = .quiet false :: rest ∨ ∃ w, s.port = .present w false :: rest) → decode s.cmd = .ok i →
    (uprog s.cfg i)[s.upc]? = some (.dly u n) →
    Answers (step s) fun t => SameRegisters s t ∧ t.waiting = true ∧ t.port = rest ∧ t.outputs.done = false ∧
      t.outputs.dlyReq = (if s.waiting then none else some ⟨decide (u = .ms), BitVec.ofNat 16 n⟩) ∧
      OneEntry (if s.waiting then .pending (.dly u n) else .asked (.dly u n)) s t) ∧
  (∀ (s : State) (i : Instr) (u : TimeUnit) (n k : Nat) (rest : List PortInput), s.busy = true → s.waiting = false →
    decode s.cmd = .ok i → (uprog s.cfg i)[s.upc]? = some (.dly u n) → s.upc + 1 < (uprog s.cfg i).length →
    Answers (Host.Core.run core (k + 1) (s.setPort (List.replicate k (.quiet false) ++ .quiet true :: rest))) fun t =>
      SameRegisters { s with upc := s.upc + 1 } t ∧ t.waiting = false ∧ t.port = rest ∧ t.now = s.now + (k + 1) ∧
      (t.newest (k + 1)).map Entry.request
        = some ⟨decide (u = .ms), BitVec.ofNat 16 n⟩ :: List.replicate k none)

/-- No step changes the configuration of the instance. Rests on 10_state.md R32: no command writes any of them;
00_scope.md R6. -/
def Obligations.NoStepWritesTheConfiguration : Prop :=
  ∀ s t : State, step s = .next t → t.cfg = s.cfg

/-- A command run by one blocking call, which is the choice of the model (log entry 3), is the same as accepting it and
stepping to its completion, the timer answering each request in its step (log entry 5). Rests on 10_state.md R28;
92_eei_decisions.md D6 (notes/assumptions/3.md); 60_exceptions.md R216. -/
def Obligations.ABlockingCallIsItsMicroSteps : Prop :=
  ∀ (s : State) (w : CmdWord) (i : Instr) (d : Bool) (rest : List PortInput), s.busy = false → decode w = .ok i →
    Host.Core.run core ((uprog s.cfg i).length + 1)
        (s.setPort (.present w d :: (List.replicate (uprog s.cfg i).length (.quiet true) ++ rest)))
      = step (s.setPort (.call w :: rest))

/-- BUSY is 1 at every position of a running command, up to its last micro-operation. Rests on 10_state.md R29: BUSY is
1 from the acceptance of a legal command to the completion of its last micro-operation; 43_display_controller.md
R176. -/
def Obligations.BusyUntilTheLastMicroOperation : Prop :=
  ∀ (s : State) (w : CmdWord) (i : Instr) (j : Nat) (rest : List PortInput), s.busy = false → decode w = .ok i →
    j < (uprog s.cfg i).length →
    Answers (Host.Core.run core (j + 1) (s.setPort (.present w true :: (List.replicate j (.quiet true) ++ rest)))) fun t =>
      t.busy = true ∧ t.cmd = w ∧ t.upc = j ∧ t.port = rest

/-- LLOW completes with its line driven low and nothing else changed. Rests on R112. -/
def Obligations.LlowDrivesItsLineLow : Prop :=
  decode 0x10000#20 = .ok (.llow .scl) ∧ decode 0x10001#20 = .ok (.llow .sda) ∧
  ∀ (l : Line) (s : State), s.busy = false →
    uprog s.cfg (.llow l) = [.set l .low] ∧
    Completes (.llow l) s (if l = .scl then .low else s.drvScl) (if l = .sda then .low else s.drvSda)
      s.shreg s.ackbit s.rsp .done

/-- LREL completes with its line released and nothing else changed. Rests on R113. -/
def Obligations.LrelReleasesItsLine : Prop :=
  decode 0x20000#20 = .ok (.lrel .scl) ∧ decode 0x20001#20 = .ok (.lrel .sda) ∧
  (∀ (l : Line) (s : State), s.busy = false →
    uprog s.cfg (.lrel l) = [.set l .rel] ∧
    Completes (.lrel l) s (if l = .scl then .rel else s.drvScl) (if l = .sda then .rel else s.drvSda)
      s.shreg s.ackbit s.rsp .done) ∧
  ∀ (l : Line) (s : State), s.drv l = .rel → (s.level l = true ↔ s.pull.on l = false)

/-- LREAD answers the level of its line and changes no driver and not ACKBIT. Rests on R114. -/
def Obligations.LreadAnswersTheLevel : Prop :=
  decode 0x30000#20 = .ok (.lread .scl) ∧ decode 0x30001#20 = .ok (.lread .sda) ∧
  ∀ (l : Line) (s : State), s.busy = false →
    uprog s.cfg (.lread l) = [.smp l .rsp] ∧
    Completes (.lread l) s s.drvScl s.drvSda s.shreg s.ackbit
      (!(s.drv l == .low || (s.pullAfter 1).on l)) (.doneWith (!(s.drv l == .low || (s.pullAfter 1).on l)))

/-- DELAY makes one request of T_BUS_US microseconds and changes no register. Rests on R115. -/
def Obligations.DelayAsksForOneBusDelay : Prop :=
  decode 0x40000#20 = .ok .delay ∧
  ∀ s : State, s.busy = false →
    uprog s.cfg .delay = [.dly .us s.cfg.tBusUs] ∧ delaysAsked (uprog s.cfg .delay) = [(.us, s.cfg.tBusUs)] ∧
    Completes .delay s s.drvScl s.drvSda s.shreg s.ackbit s.rsp .done

/-- START leaves both lines low from every state, by way of the pads the spec lists. Rests on R131. -/
def Obligations.StartLeavesBothLinesLow : Prop :=
  decode 0x50000#20 = .ok .start ∧
  ∀ s : State, s.busy = false →
    uprog s.cfg .start = [.set .scl .rel, .dly .us s.cfg.tBusUs, .set .sda .low, .dly .us s.cfg.tBusUs,
      .set .scl .low, .dly .us s.cfg.tBusUs] ∧
    Completes .start s .low .low s.shreg s.ackbit s.rsp .done ∧
    Answers (exec .start s) fun t => drivesOf (t.newest 7) =
      [(s.drvScl, s.drvSda), (.rel, s.drvSda), (.rel, s.drvSda), (.rel, .low), (.rel, .low), (.low, .low), (.low, .low)]

/-- STOP leaves both lines released from every state, with or without data driven low first. Rests on R134; R135. -/
def Obligations.StopLeavesBothLinesReleased : Prop :=
  decode 0x60000#20 = .ok .stop ∧
  ∀ s : State, s.busy = false →
    Completes .stop s .rel .rel s.shreg s.ackbit s.rsp .done ∧
    (s.cfg.stopSdaLowFirst = false →
      uprog s.cfg .stop = [.set .scl .rel, .dly .us s.cfg.tBusUs, .set .sda .rel, .dly .us s.cfg.tBusUs] ∧
      Answers (exec .stop s) fun t => drivesOf (t.newest 5) =
        [(s.drvScl, s.drvSda), (.rel, s.drvSda), (.rel, s.drvSda), (.rel, .rel), (.rel, .rel)]) ∧
    (s.cfg.stopSdaLowFirst = true →
      uprog s.cfg .stop = [.set .sda .low, .dly .us s.cfg.tBusUs, .set .scl .rel, .dly .us s.cfg.tBusUs,
        .set .sda .rel, .dly .us s.cfg.tBusUs] ∧
      Answers (exec .stop s) fun t => drivesOf (t.newest 7) =
        [(s.drvScl, s.drvSda), (s.drvScl, .low), (s.drvScl, .low), (.rel, .low), (.rel, .low), (.rel, .rel),
          (.rel, .rel)])

/-- RESTART leaves both lines low and drives the pads exactly as START from every state. Rests on 41_bus_engine.md R137:
the two commands behave identically from every state. -/
def Obligations.RestartBehavesAsStart : Prop :=
  decode 0x70000#20 = .ok .restart ∧
  ∀ s : State, s.busy = false →
    Completes .restart s .low .low s.shreg s.ackbit s.rsp .done ∧ uprog s.cfg .restart = uprog s.cfg .start ∧
    ∃ t t', exec .restart s = .next t ∧ exec .start s = .next t' ∧ padsOf (t.newest 7) = padsOf (t'.newest 7) ∧
      t.drvScl = t'.drvScl ∧ t.drvSda = t'.drvSda

/-- XFER completes with the clock low, data released, the accumulator empty and the sampled acknowledgment as response.
Rests on R138. -/
def Obligations.XferTransfersAByte : Prop :=
  ∀ (v : Byte), decode (0x8#4 ++ 0#8 ++ v) = .ok (.xfer v) ∧
  ∀ s : State, s.busy = false →
    uprog s.cfg (.xfer v) = [.ld v] ++ rep 8 [.setTop, .set .scl .rel, .dly .us s.cfg.tBusUs, .set .scl .low,
        .dly .us s.cfg.tBusUs, .shl]
      ++ [.set .sda .rel, .set .scl .rel, .dly .us s.cfg.tBusUs, .smp .sda .ackbit, .set .scl .low] ∧
    (uprog s.cfg (.xfer v)).length = 54 ∧
    Completes (.xfer v) s .low .rel 0#8 (sampledAck s 53) (sampledAck s 53) (.doneWith (sampledAck s 53))

/-- The eight clock-high periods of XFER carry bits 7 down to 0, the ninth is the acknowledgment. Rests on R57. -/
def Obligations.BitsGoOutMostSignificantFirst : Prop :=
  ∀ (v : Byte) (s : State), s.busy = false → Answers (exec (.xfer v) s) fun t =>
    (∀ k, k < 8 →
      (drivesOf (t.newest 55))[3 + 6 * k]? = some (.rel, if v.getLsbD (7 - k) then .rel else .low) ∧
      (drivesOf (t.newest 55))[4 + 6 * k]? = some (.rel, if v.getLsbD (7 - k) then .rel else .low)) ∧
    (∀ k, 51 ≤ k → k ≤ 53 → (drivesOf (t.newest 55))[k]? = some (.rel, .rel))

/-- Inside XFER the data driver changes only while the clock driver is low. Rests on 41_bus_engine.md R144. -/
def Obligations.DataChangesOnlyWhileTheClockIsLow : Prop :=
  ∀ (v : Byte) (s : State), s.busy = false → s.drvScl = .low → Answers (exec (.xfer v) s) fun t =>
    ∀ (k : Nat) (p q : Drive × Drive), (drivesOf (t.newest 55))[k]? = some p →
      (drivesOf (t.newest 55))[k + 1]? = some q → p.2 ≠ q.2 → p.1 = .low ∧ q.1 = .low

/-- The counts of micro-operations of XFER. Rests on R142. -/
def Obligations.XferCounts : Prop :=
  ∀ (c : Config) (v : Byte),
    let onData := fun op => op == MicroOp.setTop || op == .set .sda .rel || op == .set .sda .low
    let onClock := fun op => op == MicroOp.set .scl .rel || op == .set .scl .low
    uXfer c v = [.ld v] ++ rep 8 (uBit c) ++ uAck c ∧
    (uXfer c v).length = 54 ∧ (uXfer c v).countP MicroOp.isSet = 27 ∧
    (rep 8 (uBit c)).countP onData = 8 ∧ (rep 8 (uBit c)).countP onClock = 16 ∧
    (uAck c).countP onData = 1 ∧ (uAck c).countP onClock = 2 ∧
    (uXfer c v).count (.set .scl .rel) = 9 ∧ (uXfer c v).count (.set .scl .low) = 9 ∧
    (uXfer c v).count (.dly .us c.tBusUs) = 17 ∧ (uXfer c v).countP MicroOp.isDly = 17 ∧
    (uXfer c v).countP MicroOp.isSmp = 1 ∧ bytesSent (uXfer c v) = [v] ∧ (uXfer c v).count .shl = 8 ∧
    minTimeUs (uXfer c v) = 17 * c.tBusUs

/-- WRITE sends start, address byte, payload byte, stop, and leaves both lines released. Rests on R160. -/
def Obligations.WriteIsOneTransaction : Prop :=
  ∀ (addr : BusAddr) (p : Byte), decode (0x9#4 ++ addr.zeroExtend 8 ++ p) = .ok (.write addr p) ∧
  ∀ s : State, s.busy = false →
    uprog s.cfg (.write addr p) = uprog s.cfg .start
      ++ uprog s.cfg (.xfer (((addr.zeroExtend 8 <<< 1) &&& 0xFE#8) ||| 0#8)) ++ uprog s.cfg (.xfer p)
      ++ uprog s.cfg .stop ∧
    bytesSent (uprog s.cfg (.write addr p)) = [((addr.zeroExtend 8 <<< 1) &&& 0xFE#8) ||| 0#8, p] ∧
    Completes (.write addr p) s .rel .rel 0#8 (sampledAck s 113) s.rsp .done

/-- SENDB sends the six expander bytes of its two nibble groups to ADDR and leaves the bus idle. Rests on R170; R171. -/
def Obligations.SendbDeliversSixBytes : Prop :=
  ∀ (m : Mode) (v : Byte),
  decode (0xA#4 ++ (if m then 0x01#8 else 0x00#8) ++ v) = .ok (.sendb m v) ∧
  ∀ s : State, s.busy = false →
    (let rs := if m = s.cfg.modeCharacter then s.cfg.bitRs else 0#8
     let hi := rs ||| (v &&& 0xF0#8) ||| s.cfg.bitBl
     let lo := rs ||| ((v <<< 4) &&& 0xF0#8) ||| s.cfg.bitBl
     let sent := fun n => uprog s.cfg (.write s.cfg.addr n) ++ [.dly .us s.cfg.tStrobeUs]
     uprog s.cfg (.sendb m v) =
      (sent hi ++ sent (hi ||| s.cfg.bitEn) ++ sent (hi &&& ~~~s.cfg.bitEn)) ++
      (sent lo ++ sent (lo ||| s.cfg.bitEn) ++ sent (lo &&& ~~~s.cfg.bitEn))) ∧
    Completes (.sendb m v) s .rel .rel 0#8 (sampledAck s (1 + (5 * (writeSteps s.cfg + 1) + 112))) s.rsp .done

/-- CLEAR sends the clear command and ends with the clear delay, busy and deaf to other words until it ends. Rests on
R176. -/
def Obligations.ClearSendsTheClearCodeAndWaits : Prop :=
  decode 0xB0000#20 = .ok .clear ∧
  (∀ s : State, s.busy = false →
    uprog s.cfg .clear = uprog s.cfg (.sendb s.cfg.modeCommand s.cfg.lcdClearDisplay) ++ [.dly .ms s.cfg.tClearMs] ∧
    Completes .clear s .rel .rel 0#8 (sampledAck s (1 + (5 * (writeSteps s.cfg + 1) + 112))) s.rsp .done ∧
    (Answers (exec .clear s) fun t =>
      (t.newest 1).map (fun e => (e.event, e.completion)) = [(.micro (.dly .ms s.cfg.tClearMs), .done)]) ∧
    ∀ (j : Nat) (rest : List PortInput), j < (uprog s.cfg .clear).length →
      Answers (Host.Core.run core (j + 1)
        (s.setPort (.present 0xB0000#20 true :: (List.replicate j (.quiet true) ++ rest)))) fun t =>
          t.busy = true ∧ t.upc = j) ∧
  ∀ s : State, s.busy = true → decode s.cmd = .ok .clear → s.upc + 1 = (uprog s.cfg .clear).length →
    (uprog s.cfg .clear)[s.upc]? = some (.dly .ms s.cfg.tClearMs) ∧ s.outputs.busy = true ∧
    s.outputs.cmdReady = false ∧ ∀ (w : CmdWord) (rest : List PortInput),
      (Answers (step (s.setPort (.present w false :: rest))) fun t =>
        t.busy = true ∧ t.upc = s.upc ∧ t.cmd = s.cmd ∧ t.illegal = s.illegal ∧ t.outputs.done = false) ∧
      Answers (step (s.setPort (.present w true :: rest))) fun t =>
        t.busy = false ∧ t.cmd = s.cmd ∧ t.illegal = s.illegal ∧ t.outputs.done = true

/-- SETCUR does exactly what SENDB of the cursor byte in command mode does. Rests on R178. -/
def Obligations.SetcurSendsTheCursorByte : Prop :=
  ∀ (line : DispLine) (column : BitVec 4),
  decode (0xC#4 ++ (match line with | .line0 => 0x00#8 | .line1 => 0x01#8) ++ column.zeroExtend 8)
    = .ok (.setcur line column) ∧
  ∀ s : State, s.busy = false →
    uprog s.cfg (.setcur line column) = uprog s.cfg (.sendb s.cfg.modeCommand
      ((match line with | .line0 => s.cfg.ddramLine0 | .line1 => s.cfg.ddramLine1) + column.zeroExtend 8)) ∧
    (uprog s.cfg (.setcur line column)).length = (if s.cfg.stopSdaLowFirst then 726 else 714) ∧
    Completes (.setcur line column) s .rel .rel 0#8 (sampledAck s (1 + (5 * (writeSteps s.cfg + 1) + 112))) s.rsp
      .done

/-- INIT runs the six steps of the handshake in order and leaves the bus idle. Rests on R180. -/
def Obligations.InitRunsTheHandshake : Prop :=
  decode 0xD0000#20 = .ok .init ∧
  ∀ s : State, s.busy = false →
    (let send := fun v => uprog s.cfg (.sendb s.cfg.modeCommand v)
     uprog s.cfg .init = send 0x03#8 ++ send 0x03#8 ++ send 0x03#8 ++ send 0x02#8
      ++ send (s.cfg.lcdEntryModeSet ||| s.cfg.lcdEntryLeft) ++ send (s.cfg.lcdFunctionSet ||| s.cfg.lcd2Line)
      ++ send (s.cfg.lcdDisplayControl ||| s.cfg.lcdDisplayOn) ++ uprog s.cfg .clear) ∧
    Completes .init s .rel .rel 0#8
      (sampledAck s (1 + (7 * sendbSteps s.cfg + (5 * (writeSteps s.cfg + 1) + 112)))) s.rsp .done

/-- The 48 payload bytes of INIT with the default masks and codes, all to the target address. Rests on R182. -/
def Obligations.InitPayloadBytes : Prop :=
  ∀ (addr : BusAddr) (busUs strobeUs clearMs : Nat) (lowFirst : Bool),
    let c := { Config.defaultWith clearMs with
      addr := addr, tBusUs := busUs, tStrobeUs := strobeUs, stopSdaLowFirst := lowFirst }
    bytesSent (uprog c .init) =
      ([0x08#8, 0x0C#8, 0x08#8, 0x38#8, 0x3C#8, 0x38#8] ++ [0x08#8, 0x0C#8, 0x08#8, 0x38#8, 0x3C#8, 0x38#8] ++
       [0x08#8, 0x0C#8, 0x08#8, 0x38#8, 0x3C#8, 0x38#8] ++ [0x08#8, 0x0C#8, 0x08#8, 0x28#8, 0x2C#8, 0x28#8] ++
       [0x08#8, 0x0C#8, 0x08#8, 0x68#8, 0x6C#8, 0x68#8] ++ [0x28#8, 0x2C#8, 0x28#8, 0x88#8, 0x8C#8, 0x88#8] ++
       [0x08#8, 0x0C#8, 0x08#8, 0xC8#8, 0xCC#8, 0xC8#8] ++
       [0x08#8, 0x0C#8, 0x08#8, 0x18#8, 0x1C#8, 0x18#8]).flatMap (fun p => [addressByte addr, p]) ∧
    (uprog c .init).getLast? = some (.dly .ms clearMs) ∧
    (delaysAsked (uprog c .init)).countP (fun d => d.1 == .ms) = 1

/-- The length of the micro-program of every command, for both stop variants. Rests on 43_display_controller.md R175,
R177, R183; 42_bus_transaction.md R164. -/
def Obligations.MicroProgramLengths : Prop :=
  ∀ (c : Config) (i : Instr), (uprog c i).length =
    match i with
    | .llow _ => 1
    | .lrel _ => 1
    | .lread _ => 1
    | .delay => 1
    | .start => 6
    | .stop => if c.stopSdaLowFirst then 6 else 4
    | .restart => 6
    | .xfer _ => 54
    | .write _ _ => if c.stopSdaLowFirst then 120 else 118
    | .sendb _ _ => if c.stopSdaLowFirst then 726 else 714
    | .clear => if c.stopSdaLowFirst then 727 else 715
    | .setcur _ _ => if c.stopSdaLowFirst then 726 else 714
    | .init => if c.stopSdaLowFirst then 5809 else 5713

/-- The minimum time every command asks of the timer. Rests on 70_reset_and_hazards.md R255; 42_bus_transaction.md R164;
43_display_controller.md R175, R183. -/
def Obligations.MinimumTimes : Prop :=
  ∀ (c : Config) (i : Instr), minTimeUs (uprog c i) =
    match i with
    | .llow _ => 0
    | .lrel _ => 0
    | .lread _ => 0
    | .delay => c.tBusUs
    | .start => 3 * c.tBusUs
    | .stop => (if c.stopSdaLowFirst then 3 else 2) * c.tBusUs
    | .restart => 3 * c.tBusUs
    | .xfer _ => 17 * c.tBusUs
    | .write _ _ => (if c.stopSdaLowFirst then 40 else 39) * c.tBusUs
    | .sendb _ _ => (if c.stopSdaLowFirst then 240 else 234) * c.tBusUs + 6 * c.tStrobeUs
    | .clear => (if c.stopSdaLowFirst then 240 else 234) * c.tBusUs + 6 * c.tStrobeUs + 1000 * c.tClearMs
    | .setcur _ _ => (if c.stopSdaLowFirst then 240 else 234) * c.tBusUs + 6 * c.tStrobeUs
    | .init => (if c.stopSdaLowFirst then 1920 else 1872) * c.tBusUs + 48 * c.tStrobeUs + 1000 * c.tClearMs

/-- Every delay of every command is the bus delay, the strobe delay or the clear delay. Rests on 60_exceptions.md R210:
the requests it makes are of three kinds only. -/
def Obligations.DelaysAreOfThreeKinds : Prop :=
  ∀ (c : Config) (i : Instr), ∀ d ∈ delaysAsked (uprog c i),
    d = (.us, c.tBusUs) ∨ d = (.us, c.tStrobeUs) ∨ d = (.ms, c.tClearMs)

/-- No command but LREAD reads the clock line or writes RSP by a sample. Rests on 20_memory.md R51: what the block reads
of the lines. -/
def Obligations.OnlyTheDataLineIsReadInsideACommand : Prop :=
  ∀ (c : Config) (i : Instr) (l : Line) (r : SampleReg), .smp l r ∈ uprog c i →
    (l = .sda ∧ r = .ackbit) ∨ (i = .lread l ∧ r = .rsp)

/-- LREAD and XFER complete with a response, every other command without one and with RSP unchanged. Rests on R25; R83. -/
def Obligations.ResponsesComeFromLreadAndXferOnly : Prop :=
  ∀ (i : Instr) (s : State), s.busy = false → Answers (exec i s) fun t =>
    t.outputs.done = true ∧ t.outputs.cmdReady = true ∧ t.outputs.rspData = t.rsp ∧
    (∀ l, i = .lread l → t.outputs.rspValid = true ∧ t.rsp = !(s.drv l == .low || (s.pullAfter 1).on l)) ∧
    (∀ v, i = .xfer v → t.outputs.rspValid = true ∧ t.rsp = t.ackbit ∧ t.ackbit = sampledAck s 53) ∧
    ((∀ l, i ≠ .lread l) → (∀ v, i ≠ .xfer v) → t.outputs.rspValid = false ∧ t.rsp = s.rsp)

/-- The five bits of the status vector. Rests on R31. -/
def Obligations.StatusVectorLayout : Prop :=
  ∀ s : State,
    s.status.getLsbD 0 = s.busy ∧ s.status.getLsbD 1 = (s.drvScl == .low) ∧ s.status.getLsbD 2 = (s.drvSda == .low) ∧
    s.status.getLsbD 3 = s.ackbit ∧ s.status.getLsbD 4 = s.illegal

/-- What the environment pulls, and what ACKBIT, RSP, SHREG or ILLEGAL held, changes no driver and no micro-operation of
any command. Rests on 41_bus_engine.md R141: a transfer to an absent device runs exactly as long and drives exactly
the same pad states; 42_bus_transaction.md R163; 60_exceptions.md R202; 10_state.md R40: SHREG is written before it
is read. -/
def Obligations.AcknowledgmentsChangeNoPadSequence : Prop :=
  ∀ (i : Instr) (s s' : State), s.busy = false → s'.busy = false → s'.cfg = s.cfg → s'.drvScl = s.drvScl →
    s'.drvSda = s.drvSda →
    ∃ t t', exec i s = .next t ∧ exec i s' = .next t' ∧
      drivesOf (t.newest ((uprog s.cfg i).length + 1)) = drivesOf (t'.newest ((uprog s.cfg i).length + 1)) ∧
      eventsOf (t.newest ((uprog s.cfg i).length + 1)) = eventsOf (t'.newest ((uprog s.cfg i).length + 1))

/-- START from an idle bus puts exactly one start condition on the wire, and none if data is driven low on entry. Rests
on 41_bus_engine.md R133; 20_memory.md R52. -/
def Obligations.StartConditionFromAnIdleBus : Prop :=
  ∀ s : State, s.busy = false → (∀ k, k ≤ 6 → s.pullAfter k = ⟨false, false⟩) → Answers (exec .start s) fun t =>
    (s.drvScl = .rel → s.drvSda = .rel → wireEvents s.pads (t.newest 7) = [.start]) ∧
    (s.drvSda = .low → .start ∉ wireEvents s.pads (t.newest 7))

/-- STOP after a transfer makes a stop condition exactly with STOP_SDA_LOW_FIRST. Rests on 41_bus_engine.md R136;
90_conflicts.md C5; 95_test_vectors.md V33a, V34a. -/
def Obligations.StopConditionDependsOnDataLowFirst : Prop :=
  ∀ s : State, s.busy = false → s.drvScl = .low → s.drvSda = .rel →
    (∀ k, k ≤ 6 → s.pullAfter k = ⟨false, false⟩) → Answers (exec .stop s) fun t =>
      wireEvents s.pads (t.newest ((uprog s.cfg .stop).length + 1))
        = if s.cfg.stopSdaLowFirst then [.stop] else []

/-- A receiver on the wire reads exactly the address byte and the payload of a WRITE. Rests on 42_bus_transaction.md
R165; 30_encoding.md R84; 20_memory.md R52; notes/assumptions/10.md: the receiver is a function of the wire levels. -/
def Obligations.AReceiverReadsTheFrameOfAWrite : Prop :=
  ∀ (addr : BusAddr) (p : Byte) (s : State) (a1 a2 : Bool), s.busy = false → s.drvScl = .rel → s.drvSda = .rel →
    (∀ k, k ≤ 120 → s.pullAfter k = ⟨false, (decide (56 ≤ k ∧ k < 60) && a1) || (decide (110 ≤ k ∧ k < 114) && a2)⟩) →
    Answers (exec (.write addr p) s) fun t =>
      frames s.pads (t.newest ((uprog s.cfg (.write addr p)).length + 1)) = [⟨addressByte addr, !a1, p, !a2⟩]
end

