-- ==== Sys2Proof/Laws/State.lean ====
section
/-! SUPPORT. One lemma per field per named update of `State` (Sys2Proof/Machine/Ops.lean): what the update makes of
the field. Each is true by unfolding, so that no later proof unfolds a record update. -/

namespace Sys2Proof.Machine

variable (s : State)

@[simp] theorem setDrv_scl_cfg (d : Drive) : (s.setDrv .scl d).cfg = s.cfg := rfl
@[simp] theorem setDrv_scl_drvScl (d : Drive) : (s.setDrv .scl d).drvScl = d := rfl
@[simp] theorem setDrv_scl_drvSda (d : Drive) : (s.setDrv .scl d).drvSda = s.drvSda := rfl
@[simp] theorem setDrv_scl_shreg (d : Drive) : (s.setDrv .scl d).shreg = s.shreg := rfl
@[simp] theorem setDrv_scl_ackbit (d : Drive) : (s.setDrv .scl d).ackbit = s.ackbit := rfl
@[simp] theorem setDrv_scl_rsp (d : Drive) : (s.setDrv .scl d).rsp = s.rsp := rfl
@[simp] theorem setDrv_scl_illegal (d : Drive) : (s.setDrv .scl d).illegal = s.illegal := rfl
@[simp] theorem setDrv_scl_busy (d : Drive) : (s.setDrv .scl d).busy = s.busy := rfl
@[simp] theorem setDrv_scl_cmd (d : Drive) : (s.setDrv .scl d).cmd = s.cmd := rfl
@[simp] theorem setDrv_scl_upc (d : Drive) : (s.setDrv .scl d).upc = s.upc := rfl
@[simp] theorem setDrv_scl_waiting (d : Drive) : (s.setDrv .scl d).waiting = s.waiting := rfl
@[simp] theorem setDrv_scl_port (d : Drive) : (s.setDrv .scl d).port = s.port := rfl
@[simp] theorem setDrv_scl_env (d : Drive) : (s.setDrv .scl d).env = s.env := rfl
@[simp] theorem setDrv_scl_now (d : Drive) : (s.setDrv .scl d).now = s.now := rfl
@[simp] theorem setDrv_scl_trace (d : Drive) : (s.setDrv .scl d).trace = s.trace := rfl

@[simp] theorem setDrv_sda_cfg (d : Drive) : (s.setDrv .sda d).cfg = s.cfg := rfl
@[simp] theorem setDrv_sda_drvScl (d : Drive) : (s.setDrv .sda d).drvScl = s.drvScl := rfl
@[simp] theorem setDrv_sda_drvSda (d : Drive) : (s.setDrv .sda d).drvSda = d := rfl
@[simp] theorem setDrv_sda_shreg (d : Drive) : (s.setDrv .sda d).shreg = s.shreg := rfl
@[simp] theorem setDrv_sda_ackbit (d : Drive) : (s.setDrv .sda d).ackbit = s.ackbit := rfl
@[simp] theorem setDrv_sda_rsp (d : Drive) : (s.setDrv .sda d).rsp = s.rsp := rfl
@[simp] theorem setDrv_sda_illegal (d : Drive) : (s.setDrv .sda d).illegal = s.illegal := rfl
@[simp] theorem setDrv_sda_busy (d : Drive) : (s.setDrv .sda d).busy = s.busy := rfl
@[simp] theorem setDrv_sda_cmd (d : Drive) : (s.setDrv .sda d).cmd = s.cmd := rfl
@[simp] theorem setDrv_sda_upc (d : Drive) : (s.setDrv .sda d).upc = s.upc := rfl
@[simp] theorem setDrv_sda_waiting (d : Drive) : (s.setDrv .sda d).waiting = s.waiting := rfl
@[simp] theorem setDrv_sda_port (d : Drive) : (s.setDrv .sda d).port = s.port := rfl
@[simp] theorem setDrv_sda_env (d : Drive) : (s.setDrv .sda d).env = s.env := rfl
@[simp] theorem setDrv_sda_now (d : Drive) : (s.setDrv .sda d).now = s.now := rfl
@[simp] theorem setDrv_sda_trace (d : Drive) : (s.setDrv .sda d).trace = s.trace := rfl

@[simp] theorem setShreg_cfg (v : Byte) : (s.setShreg v).cfg = s.cfg := rfl
@[simp] theorem setShreg_drvScl (v : Byte) : (s.setShreg v).drvScl = s.drvScl := rfl
@[simp] theorem setShreg_drvSda (v : Byte) : (s.setShreg v).drvSda = s.drvSda := rfl
@[simp] theorem setShreg_shreg (v : Byte) : (s.setShreg v).shreg = v := rfl
@[simp] theorem setShreg_ackbit (v : Byte) : (s.setShreg v).ackbit = s.ackbit := rfl
@[simp] theorem setShreg_rsp (v : Byte) : (s.setShreg v).rsp = s.rsp := rfl
@[simp] theorem setShreg_illegal (v : Byte) : (s.setShreg v).illegal = s.illegal := rfl
@[simp] theorem setShreg_busy (v : Byte) : (s.setShreg v).busy = s.busy := rfl
@[simp] theorem setShreg_cmd (v : Byte) : (s.setShreg v).cmd = s.cmd := rfl
@[simp] theorem setShreg_upc (v : Byte) : (s.setShreg v).upc = s.upc := rfl
@[simp] theorem setShreg_waiting (v : Byte) : (s.setShreg v).waiting = s.waiting := rfl
@[simp] theorem setShreg_port (v : Byte) : (s.setShreg v).port = s.port := rfl
@[simp] theorem setShreg_env (v : Byte) : (s.setShreg v).env = s.env := rfl
@[simp] theorem setShreg_now (v : Byte) : (s.setShreg v).now = s.now := rfl
@[simp] theorem setShreg_trace (v : Byte) : (s.setShreg v).trace = s.trace := rfl

@[simp] theorem setSample_ackbit_cfg (b : Bool) : (s.setSample .ackbit b).cfg = s.cfg := rfl
@[simp] theorem setSample_ackbit_drvScl (b : Bool) : (s.setSample .ackbit b).drvScl = s.drvScl := rfl
@[simp] theorem setSample_ackbit_drvSda (b : Bool) : (s.setSample .ackbit b).drvSda = s.drvSda := rfl
@[simp] theorem setSample_ackbit_shreg (b : Bool) : (s.setSample .ackbit b).shreg = s.shreg := rfl
@[simp] theorem setSample_ackbit_ackbit (b : Bool) : (s.setSample .ackbit b).ackbit = b := rfl
@[simp] theorem setSample_ackbit_rsp (b : Bool) : (s.setSample .ackbit b).rsp = s.rsp := rfl
@[simp] theorem setSample_ackbit_illegal (b : Bool) : (s.setSample .ackbit b).illegal = s.illegal := rfl
@[simp] theorem setSample_ackbit_busy (b : Bool) : (s.setSample .ackbit b).busy = s.busy := rfl
@[simp] theorem setSample_ackbit_cmd (b : Bool) : (s.setSample .ackbit b).cmd = s.cmd := rfl
@[simp] theorem setSample_ackbit_upc (b : Bool) : (s.setSample .ackbit b).upc = s.upc := rfl
@[simp] theorem setSample_ackbit_waiting (b : Bool) : (s.setSample .ackbit b).waiting = s.waiting := rfl
@[simp] theorem setSample_ackbit_port (b : Bool) : (s.setSample .ackbit b).port = s.port := rfl
@[simp] theorem setSample_ackbit_env (b : Bool) : (s.setSample .ackbit b).env = s.env := rfl
@[simp] theorem setSample_ackbit_now (b : Bool) : (s.setSample .ackbit b).now = s.now := rfl
@[simp] theorem setSample_ackbit_trace (b : Bool) : (s.setSample .ackbit b).trace = s.trace := rfl

@[simp] theorem setSample_rsp_cfg (b : Bool) : (s.setSample .rsp b).cfg = s.cfg := rfl
@[simp] theorem setSample_rsp_drvScl (b : Bool) : (s.setSample .rsp b).drvScl = s.drvScl := rfl
@[simp] theorem setSample_rsp_drvSda (b : Bool) : (s.setSample .rsp b).drvSda = s.drvSda := rfl
@[simp] theorem setSample_rsp_shreg (b : Bool) : (s.setSample .rsp b).shreg = s.shreg := rfl
@[simp] theorem setSample_rsp_ackbit (b : Bool) : (s.setSample .rsp b).ackbit = s.ackbit := rfl
@[simp] theorem setSample_rsp_rsp (b : Bool) : (s.setSample .rsp b).rsp = b := rfl
@[simp] theorem setSample_rsp_illegal (b : Bool) : (s.setSample .rsp b).illegal = s.illegal := rfl
@[simp] theorem setSample_rsp_busy (b : Bool) : (s.setSample .rsp b).busy = s.busy := rfl
@[simp] theorem setSample_rsp_cmd (b : Bool) : (s.setSample .rsp b).cmd = s.cmd := rfl
@[simp] theorem setSample_rsp_upc (b : Bool) : (s.setSample .rsp b).upc = s.upc := rfl
@[simp] theorem setSample_rsp_waiting (b : Bool) : (s.setSample .rsp b).waiting = s.waiting := rfl
@[simp] theorem setSample_rsp_port (b : Bool) : (s.setSample .rsp b).port = s.port := rfl
@[simp] theorem setSample_rsp_env (b : Bool) : (s.setSample .rsp b).env = s.env := rfl
@[simp] theorem setSample_rsp_now (b : Bool) : (s.setSample .rsp b).now = s.now := rfl
@[simp] theorem setSample_rsp_trace (b : Bool) : (s.setSample .rsp b).trace = s.trace := rfl

@[simp] theorem nextOp_cfg : (s.nextOp).cfg = s.cfg := rfl
@[simp] theorem nextOp_drvScl : (s.nextOp).drvScl = s.drvScl := rfl
@[simp] theorem nextOp_drvSda : (s.nextOp).drvSda = s.drvSda := rfl
@[simp] theorem nextOp_shreg : (s.nextOp).shreg = s.shreg := rfl
@[simp] theorem nextOp_ackbit : (s.nextOp).ackbit = s.ackbit := rfl
@[simp] theorem nextOp_rsp : (s.nextOp).rsp = s.rsp := rfl
@[simp] theorem nextOp_illegal : (s.nextOp).illegal = s.illegal := rfl
@[simp] theorem nextOp_busy : (s.nextOp).busy = s.busy := rfl
@[simp] theorem nextOp_cmd : (s.nextOp).cmd = s.cmd := rfl
@[simp] theorem nextOp_upc : (s.nextOp).upc = s.upc + 1 := rfl
@[simp] theorem nextOp_waiting : (s.nextOp).waiting = false := rfl
@[simp] theorem nextOp_port : (s.nextOp).port = s.port := rfl
@[simp] theorem nextOp_env : (s.nextOp).env = s.env := rfl
@[simp] theorem nextOp_now : (s.nextOp).now = s.now := rfl
@[simp] theorem nextOp_trace : (s.nextOp).trace = s.trace := rfl

@[simp] theorem latch_cfg (w : CmdWord) : (s.latch w).cfg = s.cfg := rfl
@[simp] theorem latch_drvScl (w : CmdWord) : (s.latch w).drvScl = s.drvScl := rfl
@[simp] theorem latch_drvSda (w : CmdWord) : (s.latch w).drvSda = s.drvSda := rfl
@[simp] theorem latch_shreg (w : CmdWord) : (s.latch w).shreg = s.shreg := rfl
@[simp] theorem latch_ackbit (w : CmdWord) : (s.latch w).ackbit = s.ackbit := rfl
@[simp] theorem latch_rsp (w : CmdWord) : (s.latch w).rsp = s.rsp := rfl
@[simp] theorem latch_illegal (w : CmdWord) : (s.latch w).illegal = s.illegal := rfl
@[simp] theorem latch_busy (w : CmdWord) : (s.latch w).busy = true := rfl
@[simp] theorem latch_cmd (w : CmdWord) : (s.latch w).cmd = w := rfl
@[simp] theorem latch_upc (w : CmdWord) : (s.latch w).upc = 0 := rfl
@[simp] theorem latch_waiting (w : CmdWord) : (s.latch w).waiting = false := rfl
@[simp] theorem latch_port (w : CmdWord) : (s.latch w).port = s.port := rfl
@[simp] theorem latch_env (w : CmdWord) : (s.latch w).env = s.env := rfl
@[simp] theorem latch_now (w : CmdWord) : (s.latch w).now = s.now := rfl
@[simp] theorem latch_trace (w : CmdWord) : (s.latch w).trace = s.trace := rfl

@[simp] theorem endStep_cfg (e : Event) : (s.endStep e).cfg = s.cfg := rfl
@[simp] theorem endStep_drvScl (e : Event) : (s.endStep e).drvScl = s.drvScl := rfl
@[simp] theorem endStep_drvSda (e : Event) : (s.endStep e).drvSda = s.drvSda := rfl
@[simp] theorem endStep_shreg (e : Event) : (s.endStep e).shreg = s.shreg := rfl
@[simp] theorem endStep_ackbit (e : Event) : (s.endStep e).ackbit = s.ackbit := rfl
@[simp] theorem endStep_rsp (e : Event) : (s.endStep e).rsp = s.rsp := rfl
@[simp] theorem endStep_illegal (e : Event) : (s.endStep e).illegal = s.illegal := rfl
@[simp] theorem endStep_busy (e : Event) : (s.endStep e).busy = s.busy := rfl
@[simp] theorem endStep_cmd (e : Event) : (s.endStep e).cmd = s.cmd := rfl
@[simp] theorem endStep_upc (e : Event) : (s.endStep e).upc = s.upc := rfl
@[simp] theorem endStep_waiting (e : Event) : (s.endStep e).waiting = s.waiting := rfl
@[simp] theorem endStep_port (e : Event) : (s.endStep e).port = s.port := rfl
@[simp] theorem endStep_env (e : Event) : (s.endStep e).env = s.env.tail := rfl
@[simp] theorem endStep_now (e : Event) : (s.endStep e).now = s.now + 1 := rfl
@[simp] theorem endStep_trace (e : Event) : (s.endStep e).trace = ⟨e, s.pads, .none⟩ :: s.trace := rfl

@[simp] theorem complete_cfg (r : Response) : (complete r s).cfg = s.cfg := rfl
@[simp] theorem complete_drvScl (r : Response) : (complete r s).drvScl = s.drvScl := rfl
@[simp] theorem complete_drvSda (r : Response) : (complete r s).drvSda = s.drvSda := rfl
@[simp] theorem complete_shreg (r : Response) : (complete r s).shreg = s.shreg := rfl
@[simp] theorem complete_ackbit (r : Response) : (complete r s).ackbit = s.ackbit := rfl
@[simp] theorem complete_rsp (r : Response) : (complete r s).rsp = rspAtCompletion r s := rfl
@[simp] theorem complete_illegal (r : Response) : (complete r s).illegal = s.illegal := rfl
@[simp] theorem complete_busy (r : Response) : (complete r s).busy = false := rfl
@[simp] theorem complete_cmd (r : Response) : (complete r s).cmd = s.cmd := rfl
@[simp] theorem complete_upc (r : Response) : (complete r s).upc = s.upc := rfl
@[simp] theorem complete_waiting (r : Response) : (complete r s).waiting = s.waiting := rfl
@[simp] theorem complete_port (r : Response) : (complete r s).port = s.port := rfl
@[simp] theorem complete_env (r : Response) : (complete r s).env = s.env := rfl
@[simp] theorem complete_now (r : Response) : (complete r s).now = s.now := rfl
@[simp] theorem complete_trace (r : Response) : (complete r s).trace = markCompletion (completionSignals r s) s.trace := rfl

@[simp] theorem raiseIllegal_cfg (w : CmdWord) : (raiseIllegal w s).cfg = s.cfg := rfl
@[simp] theorem raiseIllegal_drvScl (w : CmdWord) : (raiseIllegal w s).drvScl = s.drvScl := rfl
@[simp] theorem raiseIllegal_drvSda (w : CmdWord) : (raiseIllegal w s).drvSda = s.drvSda := rfl
@[simp] theorem raiseIllegal_shreg (w : CmdWord) : (raiseIllegal w s).shreg = s.shreg := rfl
@[simp] theorem raiseIllegal_ackbit (w : CmdWord) : (raiseIllegal w s).ackbit = s.ackbit := rfl
@[simp] theorem raiseIllegal_rsp (w : CmdWord) : (raiseIllegal w s).rsp = s.rsp := rfl
@[simp] theorem raiseIllegal_illegal (w : CmdWord) : (raiseIllegal w s).illegal = true := rfl
@[simp] theorem raiseIllegal_busy (w : CmdWord) : (raiseIllegal w s).busy = s.busy := rfl
@[simp] theorem raiseIllegal_cmd (w : CmdWord) : (raiseIllegal w s).cmd = s.cmd := rfl
@[simp] theorem raiseIllegal_upc (w : CmdWord) : (raiseIllegal w s).upc = s.upc := rfl
@[simp] theorem raiseIllegal_waiting (w : CmdWord) : (raiseIllegal w s).waiting = s.waiting := rfl
@[simp] theorem raiseIllegal_port (w : CmdWord) : (raiseIllegal w s).port = s.port := rfl
@[simp] theorem raiseIllegal_env (w : CmdWord) : (raiseIllegal w s).env = s.env.tail := rfl
@[simp] theorem raiseIllegal_now (w : CmdWord) : (raiseIllegal w s).now = s.now + 1 := rfl
@[simp] theorem raiseIllegal_trace (w : CmdWord) : (raiseIllegal w s).trace = ⟨.illegal w, s.pads, .none⟩ :: s.trace := rfl

@[simp] theorem accept_cfg (w : CmdWord) : (accept w s).cfg = s.cfg := rfl
@[simp] theorem accept_drvScl (w : CmdWord) : (accept w s).drvScl = s.drvScl := rfl
@[simp] theorem accept_drvSda (w : CmdWord) : (accept w s).drvSda = s.drvSda := rfl
@[simp] theorem accept_shreg (w : CmdWord) : (accept w s).shreg = s.shreg := rfl
@[simp] theorem accept_ackbit (w : CmdWord) : (accept w s).ackbit = s.ackbit := rfl
@[simp] theorem accept_rsp (w : CmdWord) : (accept w s).rsp = s.rsp := rfl
@[simp] theorem accept_illegal (w : CmdWord) : (accept w s).illegal = s.illegal := rfl
@[simp] theorem accept_busy (w : CmdWord) : (accept w s).busy = true := rfl
@[simp] theorem accept_cmd (w : CmdWord) : (accept w s).cmd = w := rfl
@[simp] theorem accept_upc (w : CmdWord) : (accept w s).upc = 0 := rfl
@[simp] theorem accept_waiting (w : CmdWord) : (accept w s).waiting = false := rfl
@[simp] theorem accept_port (w : CmdWord) : (accept w s).port = s.port := rfl
@[simp] theorem accept_env (w : CmdWord) : (accept w s).env = s.env.tail := rfl
@[simp] theorem accept_now (w : CmdWord) : (accept w s).now = s.now + 1 := rfl
@[simp] theorem accept_trace (w : CmdWord) : (accept w s).trace = ⟨.accepted w, s.pads, .none⟩ :: s.trace := rfl

@[simp] theorem idleStep_cfg : (idleStep s).cfg = s.cfg := rfl
@[simp] theorem idleStep_drvScl : (idleStep s).drvScl = s.drvScl := rfl
@[simp] theorem idleStep_drvSda : (idleStep s).drvSda = s.drvSda := rfl
@[simp] theorem idleStep_shreg : (idleStep s).shreg = s.shreg := rfl
@[simp] theorem idleStep_ackbit : (idleStep s).ackbit = s.ackbit := rfl
@[simp] theorem idleStep_rsp : (idleStep s).rsp = s.rsp := rfl
@[simp] theorem idleStep_illegal : (idleStep s).illegal = s.illegal := rfl
@[simp] theorem idleStep_busy : (idleStep s).busy = s.busy := rfl
@[simp] theorem idleStep_cmd : (idleStep s).cmd = s.cmd := rfl
@[simp] theorem idleStep_upc : (idleStep s).upc = s.upc := rfl
@[simp] theorem idleStep_waiting : (idleStep s).waiting = s.waiting := rfl
@[simp] theorem idleStep_port : (idleStep s).port = s.port := rfl
@[simp] theorem idleStep_env : (idleStep s).env = s.env.tail := rfl
@[simp] theorem idleStep_now : (idleStep s).now = s.now + 1 := rfl
@[simp] theorem idleStep_trace : (idleStep s).trace = ⟨.idle, s.pads, .none⟩ :: s.trace := rfl

@[simp] theorem assertReset_cfg : (assertReset s).cfg = s.cfg := rfl
@[simp] theorem assertReset_drvScl : (assertReset s).drvScl = .rel := rfl
@[simp] theorem assertReset_drvSda : (assertReset s).drvSda = .rel := rfl
@[simp] theorem assertReset_shreg : (assertReset s).shreg = Config.resetShreg (s.now + 1) := rfl
@[simp] theorem assertReset_ackbit : (assertReset s).ackbit = Config.resetAckbit (s.now + 1) := rfl
@[simp] theorem assertReset_rsp : (assertReset s).rsp = Config.resetRsp (s.now + 1) := rfl
@[simp] theorem assertReset_illegal : (assertReset s).illegal = false := rfl
@[simp] theorem assertReset_busy : (assertReset s).busy = false := rfl
@[simp] theorem assertReset_cmd : (assertReset s).cmd = Config.resetCmd (s.now + 1) := rfl
@[simp] theorem assertReset_upc : (assertReset s).upc = 0 := rfl
@[simp] theorem assertReset_waiting : (assertReset s).waiting = false := rfl
@[simp] theorem assertReset_port : (assertReset s).port = s.port := rfl
@[simp] theorem assertReset_env : (assertReset s).env = s.env.tail := rfl
@[simp] theorem assertReset_now : (assertReset s).now = s.now + 1 := rfl
@[simp] theorem assertReset_trace : (assertReset s).trace = ⟨.rst, ⟨.rel, .rel, !s.pull.scl, !s.pull.sda⟩, .none⟩ :: s.trace := rfl
@[simp] theorem awaitTimer_cfg (op : MicroOp) : (awaitTimer op s).cfg = s.cfg := rfl
@[simp] theorem awaitTimer_drvScl (op : MicroOp) : (awaitTimer op s).drvScl = s.drvScl := rfl
@[simp] theorem awaitTimer_drvSda (op : MicroOp) : (awaitTimer op s).drvSda = s.drvSda := rfl
@[simp] theorem awaitTimer_shreg (op : MicroOp) : (awaitTimer op s).shreg = s.shreg := rfl
@[simp] theorem awaitTimer_ackbit (op : MicroOp) : (awaitTimer op s).ackbit = s.ackbit := rfl
@[simp] theorem awaitTimer_rsp (op : MicroOp) : (awaitTimer op s).rsp = s.rsp := rfl
@[simp] theorem awaitTimer_illegal (op : MicroOp) : (awaitTimer op s).illegal = s.illegal := rfl
@[simp] theorem awaitTimer_busy (op : MicroOp) : (awaitTimer op s).busy = s.busy := rfl
@[simp] theorem awaitTimer_cmd (op : MicroOp) : (awaitTimer op s).cmd = s.cmd := rfl
@[simp] theorem awaitTimer_upc (op : MicroOp) : (awaitTimer op s).upc = s.upc := rfl
@[simp] theorem awaitTimer_port (op : MicroOp) : (awaitTimer op s).port = s.port := rfl
@[simp] theorem awaitTimer_waiting (op : MicroOp) : (awaitTimer op s).waiting = true := rfl
@[simp] theorem awaitTimer_env (op : MicroOp) : (awaitTimer op s).env = s.env.tail := rfl
@[simp] theorem awaitTimer_now (op : MicroOp) : (awaitTimer op s).now = s.now + 1 := rfl
@[simp] theorem awaitTimer_trace (op : MicroOp) : (awaitTimer op s).trace
    = ⟨if s.waiting then .pending op else .asked op, s.pads, .none⟩ :: s.trace := rfl

@[simp] theorem setPort_cfg (p : List PortInput) : (s.setPort p).cfg = s.cfg := rfl
@[simp] theorem setPort_drvScl (p : List PortInput) : (s.setPort p).drvScl = s.drvScl := rfl
@[simp] theorem setPort_drvSda (p : List PortInput) : (s.setPort p).drvSda = s.drvSda := rfl
@[simp] theorem setPort_shreg (p : List PortInput) : (s.setPort p).shreg = s.shreg := rfl
@[simp] theorem setPort_ackbit (p : List PortInput) : (s.setPort p).ackbit = s.ackbit := rfl
@[simp] theorem setPort_rsp (p : List PortInput) : (s.setPort p).rsp = s.rsp := rfl
@[simp] theorem setPort_illegal (p : List PortInput) : (s.setPort p).illegal = s.illegal := rfl
@[simp] theorem setPort_busy (p : List PortInput) : (s.setPort p).busy = s.busy := rfl
@[simp] theorem setPort_cmd (p : List PortInput) : (s.setPort p).cmd = s.cmd := rfl
@[simp] theorem setPort_upc (p : List PortInput) : (s.setPort p).upc = s.upc := rfl
@[simp] theorem setPort_waiting (p : List PortInput) : (s.setPort p).waiting = s.waiting := rfl
@[simp] theorem setPort_port (p : List PortInput) : (s.setPort p).port = p := rfl
@[simp] theorem setPort_env (p : List PortInput) : (s.setPort p).env = s.env := rfl
@[simp] theorem setPort_now (p : List PortInput) : (s.setPort p).now = s.now := rfl
@[simp] theorem setPort_trace (p : List PortInput) : (s.setPort p).trace = s.trace := rfl

end Sys2Proof.Machine
end

