-- ==== Sys2Proof/Laws/Ops.lean ====
section
/-! SUPPORT. What the shared operations can do, said once: micro-operations, lists of them, the environment seen ahead,
acceptance and completion, one step of a busy block, a whole command. -/

namespace Sys2Proof.Machine

/-! ### The environment -/

theorem pull_eq_pullAfter_zero (s : State) : s.pull = s.pullAfter 0 := by
  unfold State.pull State.pullAfter; cases s.env <;> rfl

/-- A state `k` steps later, with the environment left alone otherwise, sees what was `k` steps ahead. -/
theorem pullAfter_of_drop {s t : State} {k : Nat} (he : t.env = s.env.drop k) (hn : t.now = s.now + k) (j : Nat) :
    t.pullAfter j = s.pullAfter (k + j) := by
  unfold State.pullAfter; rw [he, hn, List.drop_drop, Nat.add_assoc]

theorem pull_of_drop {s t : State} {k : Nat} (he : t.env = s.env.drop k) (hn : t.now = s.now + k) :
    t.pull = s.pullAfter k := by
  rw [pull_eq_pullAfter_zero, pullAfter_of_drop he hn, Nat.add_zero]

/-! ### One micro-operation -/

/-- What no micro-operation changes. -/
theorem effect_frame (op : MicroOp) (s : State) :
    (s.effect op).cfg = s.cfg ∧ (s.effect op).illegal = s.illegal ∧ (s.effect op).busy = s.busy ∧
    (s.effect op).cmd = s.cmd ∧ (s.effect op).upc = s.upc ∧ (s.effect op).port = s.port ∧
    (s.effect op).env = s.env ∧ (s.effect op).now = s.now ∧ (s.effect op).trace = s.trace := by
  cases op with
  | set l d => cases l <;> simp [State.effect]
  | setTop => simp [State.effect]
  | dly u n => simp [State.effect]
  | smp l r => cases r <;> simp [State.effect]
  | ld v => simp [State.effect]
  | shl => simp [State.effect]

/-- What one step of a running command does beside the operation's effect on the drivers, `SHREG` and the sampled
register. -/
theorem runOp_frame (op : MicroOp) (s : State) :
    (runOp op s).cfg = s.cfg ∧ (runOp op s).illegal = s.illegal ∧ (runOp op s).busy = s.busy ∧
    (runOp op s).cmd = s.cmd ∧ (runOp op s).upc = s.upc + 1 ∧ (runOp op s).port = s.port ∧
    (runOp op s).env = s.env.tail ∧ (runOp op s).now = s.now + 1 := by
  obtain ⟨h1, h2, h3, h4, h5, h6, h7, h8, _⟩ := effect_frame op s
  simp [runOp, h1, h2, h3, h4, h5, h6, h7, h8]

/-- The entry a step of a running command records. -/
theorem runOp_trace (op : MicroOp) (s : State) :
    (runOp op s).trace = ⟨.micro op, (s.effect op).pads, .none⟩ :: s.trace := by
  obtain ⟨_, _, _, _, _, _, _, _, h⟩ := effect_frame op s
  simp only [runOp, endStep_trace, nextOp_trace, h]
  rfl

@[simp] theorem runOp_drvScl (op : MicroOp) (s : State) : (runOp op s).drvScl = (s.effect op).drvScl := rfl
@[simp] theorem runOp_drvSda (op : MicroOp) (s : State) : (runOp op s).drvSda = (s.effect op).drvSda := rfl
@[simp] theorem runOp_shreg (op : MicroOp) (s : State) : (runOp op s).shreg = (s.effect op).shreg := rfl
@[simp] theorem runOp_ackbit (op : MicroOp) (s : State) : (runOp op s).ackbit = (s.effect op).ackbit := rfl
@[simp] theorem runOp_rsp (op : MicroOp) (s : State) : (runOp op s).rsp = (s.effect op).rsp := rfl

@[simp] theorem runOp_waiting (op : MicroOp) (s : State) : (runOp op s).waiting = false := rfl

/-- The step that completes a micro-operation of a busy block is `runOp` but for what it records. -/
theorem finishOp_eq (op : MicroOp) (s : State) :
    finishOp op s = { runOp op s with
      trace := ⟨if s.waiting && op.isDly then .answered op else .micro op, (s.effect op).pads, .none⟩ :: s.trace } := by
  obtain ⟨_, _, _, _, _, _, _, _, h⟩ := effect_frame op s
  simp only [finishOp, runOp, State.endStep, nextOp_trace, h]
  rfl

/-- With no delay request outstanding it is `runOp`. -/
theorem finishOp_of_not_waiting (op : MicroOp) {s : State} (h : s.waiting = false) : finishOp op s = runOp op s := by
  simp [finishOp, runOp, h]

/-- What it does beside the operation's effect on the drivers, `SHREG` and the sampled register. -/
theorem finishOp_frame (op : MicroOp) (s : State) :
    (finishOp op s).cfg = s.cfg ∧ (finishOp op s).illegal = s.illegal ∧ (finishOp op s).busy = s.busy ∧
    (finishOp op s).cmd = s.cmd ∧ (finishOp op s).upc = s.upc + 1 ∧ (finishOp op s).port = s.port ∧
    (finishOp op s).env = s.env.tail ∧ (finishOp op s).now = s.now + 1 := by
  rw [finishOp_eq]; exact runOp_frame op s

/-- The entry it records: a `Dly` asked in an earlier step is recorded as answered. -/
theorem finishOp_trace (op : MicroOp) (s : State) :
    (finishOp op s).trace =
      ⟨if s.waiting && op.isDly then .answered op else .micro op, (s.effect op).pads, .none⟩ :: s.trace := by
  rw [finishOp_eq]

@[simp] theorem finishOp_drvScl (op : MicroOp) (s : State) : (finishOp op s).drvScl = (s.effect op).drvScl := rfl
@[simp] theorem finishOp_drvSda (op : MicroOp) (s : State) : (finishOp op s).drvSda = (s.effect op).drvSda := rfl
@[simp] theorem finishOp_shreg (op : MicroOp) (s : State) : (finishOp op s).shreg = (s.effect op).shreg := rfl
@[simp] theorem finishOp_ackbit (op : MicroOp) (s : State) : (finishOp op s).ackbit = (s.effect op).ackbit := rfl
@[simp] theorem finishOp_rsp (op : MicroOp) (s : State) : (finishOp op s).rsp = (s.effect op).rsp := rfl
@[simp] theorem finishOp_waiting (op : MicroOp) (s : State) : (finishOp op s).waiting = false := rfl

/-! ### Lists of micro-operations -/

@[simp] theorem runOps_nil (s : State) : runOps [] s = s := rfl

@[simp] theorem runOps_cons (op : MicroOp) (ops : List MicroOp) (s : State) :
    runOps (op :: ops) s = runOps ops (runOp op s) := rfl

theorem runOps_append (a b : List MicroOp) (s : State) : runOps (a ++ b) s = runOps b (runOps a s) := by
  induction a generalizing s with
  | nil => rfl
  | cons op ops ih => exact ih _

/-- What a list of micro-operations does beside its effect on the drivers, `SHREG` and the sampled registers. -/
theorem runOps_frame (ops : List MicroOp) (s : State) :
    (runOps ops s).cfg = s.cfg ∧ (runOps ops s).illegal = s.illegal ∧ (runOps ops s).busy = s.busy ∧
    (runOps ops s).cmd = s.cmd ∧ (runOps ops s).upc = s.upc + ops.length ∧ (runOps ops s).port = s.port ∧
    (runOps ops s).env = s.env.drop ops.length ∧ (runOps ops s).now = s.now + ops.length := by
  induction ops generalizing s with
  | nil => simp
  | cons op ops ih =>
    obtain ⟨h1, h2, h3, h4, h5, h6, h7, h8⟩ := ih (runOp op s)
    obtain ⟨g1, g2, g3, g4, g5, g6, g7, g8⟩ := runOp_frame op s
    rw [runOps_cons, h1, h2, h3, h4, h5, h6, h7, h8, g1, g2, g3, g4, g5, g6, g7, g8]
    simp only [List.length_cons, List.drop_tail, true_and]
    exact ⟨by omega, by omega⟩

/-- A list of micro-operations records one entry each, in order, with no completion, and keeps the record before. -/
theorem runOps_trace (ops : List MicroOp) (s : State) :
    ∃ new : List Entry, (runOps ops s).trace = new.reverse ++ s.trace ∧
      new.map Entry.event = ops.map Event.micro ∧ ∀ e ∈ new, e.completion = .none := by
  induction ops generalizing s with
  | nil => exact ⟨[], by simp⟩
  | cons op ops ih =>
    obtain ⟨new, h1, h2, h3⟩ := ih (runOp op s)
    refine ⟨⟨.micro op, (s.effect op).pads, .none⟩ :: new, ?_, by simp [h2], ?_⟩
    · rw [runOps_cons, h1, runOp_trace]; simp
    · intro e he
      rcases List.mem_cons.mp he with rfl | he
      · rfl
      · exact h3 e he

/-- No delay request is outstanding between the micro-operations of a list. -/
theorem runOps_waiting (ops : List MicroOp) {s : State} (h : s.waiting = false) : (runOps ops s).waiting = false := by
  induction ops generalizing s with
  | nil => exact h
  | cons op ops ih => exact ih rfl

/-- No micro-operation looks at the ports. -/
theorem runOp_setPort (op : MicroOp) (s : State) (p : List PortInput) :
    runOp op (s.setPort p) = (runOp op s).setPort p := by
  cases op with
  | set l d => cases l <;> rfl
  | smp l r => cases l <;> cases r <;> rfl
  | setTop => rfl
  | dly u n => rfl
  | ld v => rfl
  | shl => rfl

theorem runOps_setPort (ops : List MicroOp) (s : State) (p : List PortInput) :
    runOps ops (s.setPort p) = (runOps ops s).setPort p := by
  induction ops generalizing s with
  | nil => rfl
  | cons op ops ih => rw [runOps_cons, runOp_setPort, ih]; rfl

/-- A list without a sample into `RSP` leaves `RSP` alone. -/
theorem runOps_rsp {ops : List MicroOp} (h : ∀ l, MicroOp.smp l .rsp ∉ ops) (s : State) :
    (runOps ops s).rsp = s.rsp := by
  induction ops generalizing s with
  | nil => rfl
  | cons op ops ih =>
    rw [runOps_cons, ih (fun l hl => h l (List.mem_cons_of_mem _ hl)), runOp_rsp]
    cases op with
    | set l d => cases l <;> rfl
    | smp l r =>
      cases r with
      | ackbit => rfl
      | rsp => exact absurd List.mem_cons_self (h l)
    | setTop => rfl
    | dly u n => rfl
    | ld v => rfl
    | shl => rfl

/-! ### Lengths of the micro-programs (spec/43_display_controller.md R183) -/

@[simp] theorem uStart_length (c : Config) : (uStart c).length = 6 := rfl
@[simp] theorem uXfer_length (c : Config) (v : Byte) : (uXfer c v).length = 54 := rfl

theorem uStop_length (c : Config) : (uStop c).length = if c.stopSdaLowFirst then 6 else 4 := by
  unfold uStop; split <;> rfl

/-! ### What the engine's lists leave in the registers -/

theorem runOps_uStart (c : Config) (s : State) :
    let t := runOps (uStart c) s
    t.drvScl = .low ∧ t.drvSda = .low ∧ t.shreg = s.shreg ∧ t.ackbit = s.ackbit ∧ t.rsp = s.rsp := by
  simp [uStart, busDelay, State.effect]

theorem runOps_uStop (c : Config) (s : State) :
    let t := runOps (uStop c) s
    t.drvScl = .rel ∧ t.drvSda = .rel ∧ t.shreg = s.shreg ∧ t.ackbit = s.ackbit ∧ t.rsp = s.rsp := by
  unfold uStop
  split <;> simp [uStopLiteral, busDelay, State.effect]

/-- One bit phase: the top bit of `SHREG` on the data driver, one clock pulse, one shift (R139). -/
theorem runOps_uBit (c : Config) (s : State) :
    let t := runOps (uBit c) s
    t.drvScl = .low ∧ t.drvSda = bitstate (s.shreg.getLsbD 7) ∧ t.shreg = s.shreg <<< 1 ∧
      t.ackbit = s.ackbit ∧ t.rsp = s.rsp := by
  simp [uBit, busDelay, State.effect]

/-- `n` bit phases shift `SHREG` left `n` times and touch no latch. -/
theorem runOps_rep_uBit (c : Config) (n : Nat) (s : State) :
    (runOps (rep n (uBit c)) s).shreg = s.shreg <<< n ∧ (runOps (rep n (uBit c)) s).ackbit = s.ackbit ∧
      (runOps (rep n (uBit c)) s).rsp = s.rsp := by
  induction n generalizing s with
  | zero => simp [rep]
  | succ n ih =>
    obtain ⟨_, _, h3, h4, h5⟩ := runOps_uBit c s
    obtain ⟨g1, g2, g3⟩ := ih (runOps (uBit c) s)
    rw [rep, runOps_append]
    refine ⟨?_, by rw [g2, h4], by rw [g3, h5]⟩
    rw [g1, h3, BitVec.shiftLeft_add, ← BitVec.shiftLeft_add]
    rw [Nat.add_comm, BitVec.shiftLeft_add]

/-- What a sample of the data line reads while the block releases it: the complement of the environment's pull (R140). -/
theorem level_sda_of_rel {s : State} (h : s.drvSda = .rel) : s.level .sda = !s.pull.sda := by
  simp [State.level, State.drv, Pull.on, h, driveLow]

/-- The acknowledge phase: data released, the data line sampled in its fourth step (R140). -/
theorem runOps_uAck (c : Config) (s : State) :
    let t := runOps (uAck c) s
    t.drvScl = .low ∧ t.drvSda = .rel ∧ t.shreg = s.shreg ∧ t.ackbit = !(s.pullAfter 3).sda ∧ t.rsp = s.rsp := by
  let u := runOps [.set .sda .rel, .set .scl .rel, busDelay c] s
  have hf := runOps_frame [.set .sda .rel, .set .scl .rel, busDelay c] s
  have hu : u.drvSda = .rel ∧ u.shreg = s.shreg ∧ u.rsp = s.rsp := by simp [u, busDelay, State.effect]
  have hpull : u.pull = s.pullAfter 3 := pull_of_drop (k := 3) hf.2.2.2.2.2.2.1 hf.2.2.2.2.2.2.2
  have ht : runOps (uAck c) s = runOp (.set .scl .low) (runOp (.smp .sda .ackbit) u) := by
    simp only [u, uAck, runOps_cons, runOps_nil]
  rw [ht]
  simp [State.effect, hu, level_sda_of_rel hu.1, hpull]

/-- A byte transfer: clock left low, data released, `SHREG` empty, `ACKBIT` the complement of what the environment
pulls in its fifty-third step (R138, R140). -/
theorem runOps_uXfer (c : Config) (v : Byte) (s : State) :
    let t := runOps (uXfer c v) s
    t.drvScl = .low ∧ t.drvSda = .rel ∧ t.shreg = 0#8 ∧ t.ackbit = !(s.pullAfter 52).sda ∧ t.rsp = s.rsp := by
  intro t
  have ht : t = runOps (uAck c) (runOps (rep 8 (uBit c)) (runOp (.ld v) s)) := by
    simp only [t, uXfer, runOps_append, runOps_cons, runOps_nil]
  obtain ⟨h1, h2, h3, h4, h5⟩ := runOps_uAck c (runOps (rep 8 (uBit c)) (runOp (.ld v) s))
  obtain ⟨g1, _, g3⟩ := runOps_rep_uBit c 8 (runOp (.ld v) s)
  obtain ⟨_, _, _, _, _, _, f7, f8⟩ := runOps_frame (rep 8 (uBit c)) (runOp (.ld v) s)
  have hl : (rep 8 (uBit c)).length = 48 := rfl
  rw [ht]
  refine ⟨h1, h2, ?_, ?_, ?_⟩
  · rw [h3, g1, runOp_shreg]
    simp only [State.effect, setShreg_shreg]
    exact BitVec.shiftLeft_eq_zero (by decide)
  · rw [h4, pullAfter_of_drop (s := s) (k := 49) (by rw [f7, hl]; simp [runOp, State.effect]) (by rw [f8, hl]; rfl)]
  · rw [h5, g3]; rfl

/-! ### A whole command and a step of a busy block -/

/-- A command presented to an idle block runs its whole micro-program and completes. -/
theorem runCommand_idle {s : State} (h : s.busy = false) (i : Instr) (ops : List MicroOp) :
    runCommand i ops s = .next (complete (responseOf i) (runOps ops (accept (encode i) s))) := by
  simp [runCommand, h]

/-- A command presented to a busy block is not looked at. -/
theorem runCommand_busy {s : State} (h : s.busy = true) (i : Instr) (ops : List MicroOp) :
    runCommand i ops s = advance true s := by
  simp [runCommand, h]

/-- Everything one step of a busy block can answer, given the timer's answer in it. -/
theorem advance_cases (d : Bool) (s : State) :
    (∃ e, decode s.cmd = .error e ∧ advance d s = .fault .noCommand) ∨
    (∃ i, decode s.cmd = .ok i ∧ (uprog s.cfg i).length ≤ s.upc ∧ advance d s = .fault .noMicroOp) ∨
    (∃ i op, decode s.cmd = .ok i ∧ (uprog s.cfg i)[s.upc]? = some op ∧ op.isDly = true ∧ d = false ∧
      advance d s = .next (awaitTimer op s)) ∨
    (∃ i op, decode s.cmd = .ok i ∧ (uprog s.cfg i)[s.upc]? = some op ∧ (op.isDly = false ∨ d = true) ∧
      s.upc + 1 = (uprog s.cfg i).length ∧ advance d s = .next (complete (responseOf i) (finishOp op s))) ∨
    (∃ i op, decode s.cmd = .ok i ∧ (uprog s.cfg i)[s.upc]? = some op ∧ (op.isDly = false ∨ d = true) ∧
      s.upc + 1 < (uprog s.cfg i).length ∧ advance d s = .next (finishOp op s)) := by
  unfold advance
  cases hd : decode s.cmd with
  | error e => exact .inl ⟨e, rfl, rfl⟩
  | ok i =>
    have hlen := List.length_drop (l := uprog s.cfg i) (i := s.upc)
    have hget : (uprog s.cfg i)[s.upc]? = ((uprog s.cfg i).drop s.upc)[0]? := by simp
    cases hp : (uprog s.cfg i).drop s.upc with
    | nil =>
      rw [hp] at hlen
      simp only [List.length_nil] at hlen
      exact .inr (.inl ⟨i, rfl, by omega, by simp only [hp]⟩)
    | cons op rest =>
      rw [hp] at hlen hget
      have hop : (uprog s.cfg i)[s.upc]? = some op := by simpa using hget
      simp only [List.length_cons] at hlen
      by_cases hw : op.isDly = true ∧ d = false
      · exact .inr (.inr (.inl ⟨i, op, rfl, hop, hw.1, hw.2, by simp [hp, hw.1, hw.2]⟩))
      · have hdone : op.isDly = false ∨ d = true := by
          cases h1 : op.isDly <;> cases h2 : d <;> simp [h1, h2] at hw ⊢
        have hcond : (op.isDly && !d) = false := by rcases hdone with h | h <;> simp [h]
        cases rest with
        | nil =>
          simp only [List.length_nil] at hlen
          exact .inr (.inr (.inr (.inl ⟨i, op, rfl, hop, hdone, by omega, by simp [hp, hcond]⟩)))
        | cons op' rest' =>
          simp only [List.length_cons] at hlen
          exact .inr (.inr (.inr (.inr ⟨i, op, rfl, hop, hdone, by omega, by simp [hp, hcond]⟩)))

/-- One step of a busy block at a position of its micro-program: a `Dly` without an answer holds it; else the operation,
and the completion if it was the last. -/
theorem advance_at {s : State} {i : Instr} {op : MicroOp} (d : Bool) (hd : decode s.cmd = .ok i)
    (hop : (uprog s.cfg i)[s.upc]? = some op) :
    advance d s = .next (if op.isDly && !d then awaitTimer op s
      else if s.upc + 1 = (uprog s.cfg i).length then complete (responseOf i) (finishOp op s) else finishOp op s) := by
  have hlt : s.upc < (uprog s.cfg i).length := by
    by_contra h
    rw [List.getElem?_eq_none (by omega)] at hop
    cases hop
  have hc : ∀ {op' : MicroOp}, (op'.isDly = false ∨ d = true) → (op'.isDly && !d) = false := by
    intro op' h; rcases h with h | h <;> simp [h]
  rcases advance_cases d s with ⟨e, h, _⟩ | ⟨j, h, hl, _⟩ | ⟨j, op', h, ho, h1, h2, ha⟩ | ⟨j, op', h, ho, h1, hl, ha⟩ |
      ⟨j, op', h, ho, h1, hl, ha⟩
  · rw [hd] at h; cases h
  · rw [hd] at h; cases h; omega
  · rw [hd] at h; cases h; rw [ho] at hop; cases hop; rw [ha]; simp [h1, h2]
  · rw [hd] at h; cases h; rw [ho] at hop; cases hop; rw [ha, hc h1, if_neg (by decide), if_pos hl]
  · rw [hd] at h; cases h; rw [ho] at hop; cases hop; rw [ha, hc h1, if_neg (by decide), if_neg (by omega)]

/-- What one step of a busy block changes at most, whatever the position and the timer's answer. -/
theorem advance_frame {d : Bool} {s t : State} (h : advance d s = .next t) :
    t.cfg = s.cfg ∧ t.illegal = s.illegal ∧ t.cmd = s.cmd ∧ t.port = s.port ∧ (t.upc = s.upc ∨ t.upc = s.upc + 1) ∧
    t.env = s.env.tail ∧ t.now = s.now + 1 ∧ ∃ e, t.trace = e :: s.trace := by
  rcases advance_cases d s with ⟨_, _, ha⟩ | ⟨_, _, _, ha⟩ | ⟨j, op, _, _, _, _, ha⟩ | ⟨j, op, _, _, _, _, ha⟩ |
      ⟨j, op, _, _, _, _, ha⟩ <;> rw [ha] at h <;> cases h
  · exact ⟨rfl, rfl, rfl, rfl, .inl rfl, rfl, rfl, ⟨_, rfl⟩⟩
  · obtain ⟨f1, f2, _, f4, f5, f6, f7, f8⟩ := finishOp_frame op s
    exact ⟨f1, f2, f4, f6, .inr f5, f7, f8, by rw [complete_trace, finishOp_trace, markCompletion]; exact ⟨_, rfl⟩⟩
  · obtain ⟨f1, f2, _, f4, f5, f6, f7, f8⟩ := finishOp_frame op s
    exact ⟨f1, f2, f4, f6, .inr f5, f7, f8, by rw [finishOp_trace]; exact ⟨_, rfl⟩⟩

end Sys2Proof.Machine
end

