-- ==== Sys2Proof/Laws/Step.lean ====
section
/-! SUPPORT. Everything one step can do, said once, and every command's meaning as a whole command. -/

namespace Sys2Proof.Machine

/-- Every arm of the dispatch runs the command's own micro-program. -/
theorem exec_eq_runCommand (i : Instr) (s : State) : exec i s = runCommand i (uprog s.cfg i) s := by
  cases i <;> rfl

/-- A command presented to an idle block: its micro-program from acceptance to completion. -/
theorem exec_idle {s : State} (h : s.busy = false) (i : Instr) :
    exec i s = .next (complete (responseOf i) (runOps (uprog s.cfg i) (accept (encode i) s))) := by
  rw [exec_eq_runCommand, runCommand_idle h]

/-- A command presented to a busy block is not looked at: the running command goes on. -/
theorem exec_busy {s : State} (h : s.busy = true) (i : Instr) : exec i s = advance true s := by
  rw [exec_eq_runCommand, runCommand_busy h]

theorem setPort_self (s : State) : s.setPort s.port = s := rfl

/-- Everything one step can do: a reset; a step of a busy block; and for an idle block, what the port presents. -/
theorem step_cases (s : State) :
    (∃ p, s.port = .rst :: p ∧ step s = .next (assertReset (s.setPort p))) ∨
    (s.busy = true ∧ s.port.head? ≠ some .rst ∧ ∃ p, step s = advance s.timerAnswers (s.setPort p)) ∨
    (s.busy = false ∧ (s.port = [] ∨ ∃ d, s.port = .quiet d :: s.port.tail) ∧
      step s = .next (idleStep (s.setPort s.port.tail))) ∨
    (s.busy = false ∧ ∃ w d i p, decode w = .ok i ∧ s.port = .present w d :: p ∧
      step s = .next (accept w (s.setPort p))) ∨
    (s.busy = false ∧ ∃ w e p, decode w = .error e ∧ ((∃ d, s.port = .present w d :: p) ∨ s.port = .call w :: p) ∧
      step s = .next (raiseIllegal w (s.setPort p))) ∨
    (s.busy = false ∧ ∃ w i p, decode w = .ok i ∧ s.port = .call w :: p ∧ step s = exec i (s.setPort p)) := by
  rcases Bool.eq_false_or_eq_true s.busy with hb | hb
  · -- busy: a reset, or one micro-operation whatever is presented
    cases hport : s.port with
    | nil =>
      exact .inr (.inl ⟨hb, by simp, s.port, by
        rw [setPort_self]; simp [step, fetch, hport, quietStep, State.timerAnswers, hb]⟩)
    | cons inp rest =>
      cases inp with
      | quiet d =>
        exact .inr (.inl ⟨hb, by simp, rest, by simp [step, fetch, hport, quietStep, State.timerAnswers, hb]⟩)
      | present w d =>
        exact .inr (.inl ⟨hb, by simp, rest, by simp [step, fetch, hport, presentStep, State.timerAnswers, hb]⟩)
      | call w =>
        exact .inr (.inl ⟨hb, by simp, s.port, by
          rw [setPort_self]; simp [step, fetch, hport, State.timerAnswers, hb]⟩)
      | rst => exact .inl ⟨rest, rfl, by simp [step, fetch, hport]⟩
  · -- idle: what the port presents decides
    cases hport : s.port with
    | nil =>
      refine .inr (.inr (.inl ⟨hb, .inl rfl, ?_⟩))
      have h : s.setPort [] = s := by rw [← hport]; exact setPort_self s
      simp [step, fetch, hport, quietStep, hb, h]
    | cons inp rest =>
      cases inp with
      | quiet d => exact .inr (.inr (.inl ⟨hb, .inr ⟨d, rfl⟩, by simp [step, fetch, hport, quietStep, hb]⟩))
      | rst => exact .inl ⟨rest, rfl, by simp [step, fetch, hport]⟩
      | present w d =>
        cases hd : decode w with
        | ok i =>
          exact .inr (.inr (.inr (.inl
            ⟨hb, w, d, i, rest, hd, rfl, by simp [step, fetch, hport, presentStep, hb, hd]⟩)))
        | error e =>
          exact .inr (.inr (.inr (.inr (.inl
            ⟨hb, w, e, rest, hd, .inl ⟨d, rfl⟩, by simp [step, fetch, hport, presentStep, hb, hd]⟩))))
      | call w =>
        cases hd : decode w with
        | ok i =>
          exact .inr (.inr (.inr (.inr (.inr
            ⟨hb, w, i, rest, hd, rfl, by simp [step, fetch, hport, callStep, hb, hd]⟩))))
        | error e =>
          exact .inr (.inr (.inr (.inr (.inl
            ⟨hb, w, e, rest, hd, .inr rfl, by simp [step, fetch, hport, callStep, hb, hd]⟩))))

/-- One step of a busy block at a position of its micro-program, nothing presented. -/
theorem step_quiet_at {s : State} {i : Instr} {op : MicroOp} {d : Bool} (hb : s.busy = true)
    (hd : decode s.cmd = .ok i) (hop : (uprog s.cfg i)[s.upc]? = some op) (p : List PortInput) :
    step (s.setPort (.quiet d :: p)) = .next (if op.isDly && !d then awaitTimer op (s.setPort p)
      else if s.upc + 1 = (uprog s.cfg i).length then complete (responseOf i) (finishOp op (s.setPort p))
      else finishOp op (s.setPort p)) := by
  refine Eq.trans ?_ (advance_at (s := s.setPort p) d hd hop)
  simp only [step, fetch, quietStep, setPort_port, setPort_busy, hb, if_true]
  rfl

/-- An idle block that is presented with a legal word accepts it, whatever the timer answers. -/
theorem step_present_idle {s : State} {w : CmdWord} {i : Instr} {d : Bool} (hb : s.busy = false)
    (hd : decode w = .ok i) (p : List PortInput) :
    step (s.setPort (.present w d :: p)) = .next ((accept w s).setPort p) := by
  simp only [step, fetch, presentStep, setPort_port, setPort_busy, hb, hd]
  rfl

/-- A run takes its first step first. -/
theorem run_succ (n : Nat) (s : State) :
    Host.Core.run core (n + 1) s =
      match step s with
      | .next t => Host.Core.run core n t
      | .fault r => .fault r
      | .refused r => .refused r := by
  cases h : step s <;> (have h' : core.step s = _ := h; simp only [Host.Core.run, h'])

/-- A run takes its last step last. -/
theorem run_succ_last {n : Nat} {s t : State} (h : Host.Core.run core n s = .next t) :
    Host.Core.run core (n + 1) s = step t := by
  induction n generalizing s with
  | zero =>
    have hst : s = t := by injection h
    rw [hst, run_succ]
    cases step t <;> rfl
  | succ n ih =>
    rw [run_succ] at h ⊢
    cases hs : step s with
    | next u => rw [hs] at h; exact ih h
    | fault r => rw [hs] at h; cases h
    | refused r => rw [hs] at h; cases h

end Sys2Proof.Machine
end

