-- ==== Sys2Proof/Laws/Commands.lean ====
section
/-! SUPPORT. What the micro-programs above the engine leave in the registers, and what a whole command does beside
that, said once. -/

namespace Sys2Proof.Machine

/-- The registers a list of micro-operations that ends on the bus can change, as it leaves them: both drivers released,
`SHREG` empty, `ACKBIT` the sample taken `k` steps from the start, `RSP` untouched. -/
def LeavesBusIdle (ops : List MicroOp) (k : Nat) : Prop :=
  ∀ s : State,
    (runOps ops s).drvScl = .rel ∧ (runOps ops s).drvSda = .rel ∧ (runOps ops s).shreg = 0#8 ∧
    (runOps ops s).ackbit = sampledAck s k ∧ (runOps ops s).rsp = s.rsp

theorem uWrite_length (c : Config) (addr : BusAddr) (p : Byte) : (uWrite c addr p).length = writeSteps c := by
  simp only [uWrite, List.length_append, uStart_length, uXfer_length, uStop_length, writeSteps]
  split <;> rfl

theorem uStrobeWrite_length (c : Config) (n : Byte) : (uStrobeWrite c n).length = writeSteps c + 1 := by
  simp [uStrobeWrite, uWrite_length]

theorem uSendb_length (c : Config) (m : Mode) (v : Byte) : (uSendb c m v).length = sendbSteps c := by
  simp only [uSendb, uNib, List.length_append, uStrobeWrite_length, sendbSteps]
  omega

/-- What comes before a list that leaves the bus idle does not matter, but that it leaves `RSP` alone. -/
theorem LeavesBusIdle.prepend {a b : List MicroOp} {k : Nat} (hb : LeavesBusIdle b k)
    (ha : ∀ s, (runOps a s).rsp = s.rsp) : LeavesBusIdle (a ++ b) (a.length + k) := by
  intro s
  obtain ⟨h1, h2, h3, h4, h5⟩ := hb (runOps a s)
  obtain ⟨_, _, _, _, _, _, f7, f8⟩ := runOps_frame a s
  rw [runOps_append]
  refine ⟨h1, h2, h3, ?_, by rw [h5, ha]⟩
  rw [h4, sampledAck, pullAfter_of_drop f7 f8]; rfl

/-- A delay after it changes none of the registers. -/
theorem LeavesBusIdle.append_dly {a : List MicroOp} {k : Nat} (h : LeavesBusIdle a k) (u : TimeUnit) (n : Nat) :
    LeavesBusIdle (a ++ [.dly u n]) k := by
  intro s
  rw [runOps_append]
  exact h s

/-- WRITE leaves the bus idle; its `ACKBIT` is the sample after the payload byte (R160, R162). -/
theorem uWrite_leaves (c : Config) (addr : BusAddr) (p : Byte) : LeavesBusIdle (uWrite c addr p) 112 := by
  have h : LeavesBusIdle (uXfer c p ++ uStop c) 52 := by
    intro s
    obtain ⟨g1, g2, g3, g4, g5⟩ := runOps_uStop c (runOps (uXfer c p) s)
    obtain ⟨_, _, h3, h4, h5⟩ := runOps_uXfer c p s
    rw [runOps_append]
    exact ⟨g1, g2, by rw [g3, h3], by rw [g4, h4]; rfl, by rw [g5, h5]⟩
  have h2 := h.prepend (a := uStart c ++ uXfer c (addressByte addr)) (by
    intro s
    rw [runOps_append, (runOps_uXfer c _ _).2.2.2.2, (runOps_uStart c s).2.2.2.2])
  simpa [uWrite, List.append_assoc] using h2

theorem uStrobeWrite_leaves (c : Config) (n : Byte) : LeavesBusIdle (uStrobeWrite c n) 112 :=
  (uWrite_leaves c c.addr n).append_dly .us c.tStrobeUs

/-- SENDB leaves the bus idle; its `ACKBIT` is the sample after the payload byte of the sixth WRITE (R170, R202). -/
theorem uSendb_leaves (c : Config) (m : Mode) (v : Byte) :
    LeavesBusIdle (uSendb c m v) (5 * (writeSteps c + 1) + 112) := by
  have hr : ∀ (n : Byte) (s : State), (runOps (uStrobeWrite c n) s).rsp = s.rsp :=
    fun n s => (uStrobeWrite_leaves c n s).2.2.2.2
  have h := (uStrobeWrite_leaves c (enableClear c (lowNibbleByte c m v))).prepend
    (a := uNib c (highNibbleByte c m v) ++ (uStrobeWrite c (lowNibbleByte c m v)
      ++ uStrobeWrite c (enableSet c (lowNibbleByte c m v)))) (by
        intro s; simp only [uNib, runOps_append, hr])
  have hl : (uNib c (highNibbleByte c m v) ++ (uStrobeWrite c (lowNibbleByte c m v)
      ++ uStrobeWrite c (enableSet c (lowNibbleByte c m v)))).length = 5 * (writeSteps c + 1) := by
    simp only [uNib, List.length_append, uStrobeWrite_length]; omega
  rw [hl] at h
  simpa only [uSendb, uNib, List.append_assoc] using h

/-- CLEAR is SENDB and a delay (R176). -/
theorem uClear_leaves (c : Config) : LeavesBusIdle (uClear c) (5 * (writeSteps c + 1) + 112) :=
  (uSendb_leaves c _ _).append_dly .ms c.tClearMs

/-- INIT is seven SENDBs and CLEAR (R180). -/
theorem uInit_leaves (c : Config) : LeavesBusIdle (uInit c) (7 * sendbSteps c + (5 * (writeSteps c + 1) + 112)) := by
  have hr : ∀ (m : Mode) (v : Byte) (s : State), (runOps (uSendb c m v) s).rsp = s.rsp :=
    fun m v s => (uSendb_leaves c m v s).2.2.2.2
  have h := (uClear_leaves c).prepend
    (a := uSendb c c.modeCommand 0x03#8 ++ uSendb c c.modeCommand 0x03#8 ++ uSendb c c.modeCommand 0x03#8
      ++ uSendb c c.modeCommand 0x02#8 ++ uSendb c c.modeCommand (entryModeByte c)
      ++ uSendb c c.modeCommand (functionSetByte c) ++ uSendb c c.modeCommand (displayOnByte c)) (by
        intro s; simp only [runOps_append, hr])
  simp only [List.length_append, uSendb_length] at h
  have e : ∀ n : Nat, n + n + n + n + n + n + n = 7 * n := by intro n; omega
  rw [e] at h
  exact h

theorem writeSteps_pos (c : Config) : 0 < writeSteps c := by unfold writeSteps; split <;> decide

theorem uClear_length (c : Config) : (uClear c).length = sendbSteps c + 1 := by
  simp [uClear, uSendb_length]

theorem uInit_length (c : Config) : (uInit c).length = 7 * sendbSteps c + (sendbSteps c + 1) := by
  simp only [uInit, List.length_append, uSendb_length, uClear_length]; omega

/-- Every micro-program has at least one micro-operation. -/
theorem uprog_length_pos (c : Config) (i : Instr) : 0 < (uprog c i).length := by
  have hs : 0 < sendbSteps c := by unfold sendbSteps; omega
  cases i with
  | llow l => exact Nat.one_pos
  | lrel l => exact Nat.one_pos
  | lread l => exact Nat.one_pos
  | delay => exact Nat.one_pos
  | start => exact Nat.succ_pos 5
  | restart => exact Nat.succ_pos 5
  | xfer v => exact Nat.succ_pos 53
  | stop => simp only [uprog, uStop_length]; split <;> decide
  | write addr p => simp only [uprog, uWrite_length, writeSteps_pos]
  | sendb m v => simpa only [uprog, uSendb_length] using hs
  | setcur line column => simpa only [uprog, uSetcur, uSendb_length] using hs
  | clear => simp only [uprog, uClear_length]; omega
  | init => simp only [uprog, uInit_length]; omega

theorem uprog_ne_nil (c : Config) (i : Instr) : uprog c i ≠ [] :=
  List.ne_nil_of_length_pos (uprog_length_pos c i)

/-- What a command presented to an idle block does, in terms of its micro-program: the registers as the list leaves
them, `RSP` and the signals as its response says, and the frame of every command. -/
theorem completes_of_runOps {s : State} (hb : s.busy = false) (i : Instr) :
    let r := runOps (uprog s.cfg i) (accept (encode i) s)
    Completes i s r.drvScl r.drvSda r.shreg r.ackbit (rspAtCompletion (responseOf i) r)
      (completionSignals (responseOf i) r) := by
  intro r
  obtain ⟨f1, f2, f3, f4, f5, f6, f7, f8⟩ := runOps_frame (uprog s.cfg i) (accept (encode i) s)
  obtain ⟨new, h1, h2, h3⟩ := runOps_trace (uprog s.cfg i) (accept (encode i) s)
  have hlen : new.length = (uprog s.cfg i).length := by
    have := congrArg List.length h2; simpa using this
  rcases List.eq_nil_or_concat new with hnil | ⟨init, last, hnew⟩
  · exact absurd (List.length_eq_zero_iff.mp (by rw [← hlen, hnil]; rfl)) (uprog_ne_nil s.cfg i)
  rw [List.concat_eq_append] at hnew
  have htr : r.trace = last :: (init.reverse ++ ⟨.accepted (encode i), s.pads, .none⟩ :: s.trace) := by
    simp only [r, h1, hnew]; simp
  have hinit : init.length + 1 = (uprog s.cfg i).length := by rw [← hlen, hnew]; simp
  have hcomp : ∀ e ∈ init, e.completion = .none := fun e he => h3 e (by rw [hnew]; simp [he])
  have hdrop : ∀ x : Entry, (x :: (init.reverse ++ ⟨.accepted (encode i), s.pads, .none⟩ :: s.trace)).drop
      ((uprog s.cfg i).length + 1) = s.trace := by
    intro x
    have e : (x :: (init.reverse ++ ⟨.accepted (encode i), s.pads, .none⟩ :: s.trace))
        = (x :: (init.reverse ++ [⟨.accepted (encode i), s.pads, .none⟩])) ++ s.trace := by simp
    rw [e]; exact List.drop_left' (by simp; omega)
  have htake : ∀ x : Entry, (x :: (init.reverse ++ ⟨.accepted (encode i), s.pads, .none⟩ :: s.trace)).take
      ((uprog s.cfg i).length + 1) = x :: (init.reverse ++ [⟨.accepted (encode i), s.pads, .none⟩]) := by
    intro x
    have e : (x :: (init.reverse ++ ⟨.accepted (encode i), s.pads, .none⟩ :: s.trace))
        = (x :: (init.reverse ++ [⟨.accepted (encode i), s.pads, .none⟩])) ++ s.trace := by simp
    rw [e]; exact List.take_left' (by simp; omega)
  refine ⟨complete (responseOf i) r, exec_idle hb i, rfl, rfl, rfl, rfl, rfl, ⟨rfl, ?_, ?_, ?_⟩,
    ⟨f1, f2, f6, ?_, ?_, ?_, ?_⟩, ?_, ?_⟩
  · exact f4
  · rw [complete_upc, complete_cfg, f1, f5]; simp
  · exact runOps_waiting _ rfl
  · rw [complete_env, f7]; simp [← List.drop_one, List.drop_drop, Nat.add_comm]
  · rw [complete_now, f8]; simp only [accept_now]; omega
  · rw [complete_trace, htr, markCompletion]; exact hdrop _
  · rw [complete_trace, htr, markCompletion]; simp; omega
  · rw [State.newest, complete_trace, htr, markCompletion, htake]
    simp only [eventsOf, microEvents, ← h2, hnew]
    simp
  · rw [State.newest, complete_trace, htr, markCompletion, htake]
    have : init.map Entry.completion = List.replicate init.length .none :=
      List.eq_replicate_iff.mpr ⟨by simp, by
        intro b hb'
        obtain ⟨e, he, rfl⟩ := List.mem_map.mp hb'
        exact hcomp e he⟩
    simp only [completionsOf, List.reverse_cons, List.reverse_append, List.reverse_reverse, List.map_append,
      List.map_cons, List.map_nil, this, List.reverse_nil, List.nil_append, ← hinit, List.replicate_succ,
      List.cons_append]

end Sys2Proof.Machine
end

