-- ==== Sys2Proof/Laws/PerInstr.lean ====
section
/-! SUPPORT. Statements made per instruction, about the instruction as syntax: the fields a command is encoded in pass
every check of spec/30_encoding.md R99 (reserved opcode, reserved bits). -/

namespace Sys2Proof.Laws.LegalFields

/-- The fields of the command are well formed: its opcode is assigned and its reserved bits are zero (R82, R99). -/
def Statement (i : Instr) : Prop := (operandFields i).wellFormed = true

theorem llow (l : Line) : Statement (.llow l) := by cases l <;> rfl
theorem lrel (l : Line) : Statement (.lrel l) := by cases l <;> rfl
theorem lread (l : Line) : Statement (.lread l) := by cases l <;> rfl
theorem delay : Statement .delay := rfl
theorem start : Statement .start := rfl
theorem stop : Statement .stop := rfl
theorem restart : Statement .restart := rfl
theorem xfer (v : Byte) : Statement (.xfer v) := by
  simp [Statement, Fields.wellFormed, Fields.illFormed, operandFields, reservedBits]
theorem write (addr : BusAddr) (payload : Byte) : Statement (.write addr payload) := by
  have h : ∀ a : BusAddr, (a.zeroExtend 8 : Byte) &&& 0x80#8 = 0#8 := by decide
  simp [Statement, Fields.wellFormed, Fields.illFormed, operandFields, reservedBits, h]
theorem sendb (m : Mode) (v : Byte) : Statement (.sendb m v) := by
  cases m <;> simp [Statement, Fields.wellFormed, Fields.illFormed, operandFields, reservedBits, byteOfBit]
theorem clear : Statement .clear := rfl
theorem setcur (line : DispLine) (column : BitVec 4) : Statement (.setcur line column) := by
  revert column; cases line <;> unfold Statement <;> decide
theorem init : Statement .init := rfl

end Sys2Proof.Laws.LegalFields
end

