-- ==== Sys2Proof/Tests/Slice0.lean ====
section
/-! SUPPORT. Tests: ill-formed words and configurations, decoding of words written out in the spec, single steps against
spec/95_test_vectors.md, and for every obligation with hypotheses a witness that meets them (`test_witness_…`). Every
expected value is the spec's. -/

namespace Sys2Proof.Tests

open Sys2Proof Sys2Proof.Machine

set_option maxRecDepth 20000

/-! ### Helpers -/

/-- The default instance with the smallest clear delay (R6). -/
def cfg : Config := Config.defaultWith 1

/-- The same with `STOP_SDA_LOW_FIRST = true`. -/
def cfgLowFirst : Config := { cfg with stopSdaLowFirst := true }

/-- An idle block with the given drivers, environment and port; `ACKBIT = 0`, `RSP = 1`. -/
def idleAt (c : Config) (scl sda : Drive) (env : List Pull) (port : List PortInput) : State where
  cfg := c
  drvScl := scl
  drvSda := sda
  shreg := 0x5A#8
  ackbit := false
  rsp := true
  illegal := false
  busy := false
  cmd := 0x40000#20
  upc := 1
  waiting := false
  port := port
  env := env
  now := 0
  trace := []

/-- Nothing on the bus for `k` steps (95_test_vectors.md part 2, E_NONE). -/
def nothing (k : Nat) : List Pull := List.replicate k ⟨false, false⟩

/-- Some device pulls the data line low for `k` steps. -/
def dataLow (k : Nat) : List Pull := List.replicate k ⟨false, true⟩

/-- An idle block, both lines released, nothing on the bus. -/
def idle : State := idleAt cfg .rel .rel (nothing 8) []

/-- A block in the middle of START: two micro-operations done. -/
def running : State := { idle with busy := true, cmd := 0x50000#20, upc := 2 }

/-- A block in the last step of START. -/
def ending : State := { idle with busy := true, cmd := 0x50000#20, upc := 5 }

/-- A block at the first delay of START, the timer silent for a step. -/
def waiting0 : State := { running with upc := 1, port := [.quiet false] }

/-- The same, the request made in an earlier step. -/
def waiting1 : State := { waiting0 with waiting := true }

/-- A block in the last step of CLEAR. -/
def clearing : State := { idle with busy := true, cmd := 0xB0000#20, upc := 714 }

/-- What a next state shows. -/
def seen {α : Type} (o : Result) (f : State → α) : Option α :=
  match o with
  | .next t => some (f t)
  | .fault _ => none
  | .refused _ => none

/-- What a command leaves: drivers, `SHREG`, `ACKBIT`, `RSP`, the completion. -/
structure Left where
  scl : Drive
  sda : Drive
  shreg : Byte
  ackbit : Bool
  rsp : Bool
  completion : Option Completion
  deriving DecidableEq

/-- What a command left in a state. -/
def left (t : State) : Left := ⟨t.drvScl, t.drvSda, t.shreg, t.ackbit, t.rsp, t.trace.head?.map Entry.completion⟩

/-- The driver states right after each `Set` of a command (95_test_vectors.md, Notation). -/
def setTrace (t : State) : List (Drive × Drive) :=
  drivesOf (t.history.filter fun e =>
    match e.event with
    | .micro op => op.isSet
    | .asked _ => false
    | .pending _ => false
    | .answered _ => false
    | .accepted _ => false
    | .illegal _ => false
    | .idle => false
    | .rst => false)

/-- The payload bytes of a display command: every second byte sent. -/
def payloads (c : Config) (i : Instr) : List Byte :=
  (bytesSent (uprog c i)).zipIdx.filterMap fun p => if p.2 % 2 = 1 then some p.1 else none

/-- The data bit pattern of one bit phase: the three pairs its `Set`s leave (V30). -/
def bitSets (b : Bool) : List (Drive × Drive) :=
  if b then [(.low, .rel), (.rel, .rel), (.low, .rel)] else [(.low, .low), (.rel, .low), (.low, .low)]

/-- The pairs of an acknowledgment slot (V30). -/
def ackSets : List (Drive × Drive) := [(.low, .rel), (.rel, .rel), (.low, .rel)]

/-- The drivers at some positions of a transfer's record. -/
def driversAt (ks : List Nat) (t : State) : List (Option (Drive × Drive)) :=
  ks.map fun k => (drivesOf (t.newest 55))[k]?

/-! ### Ill-formed words and configurations, one for each check -/

/-- V21: opcode 0xE. -/
theorem test_illformed_opcode : (fieldsOf 0xE0000#20).illFormed = some .reservedOpcode := by decide

/-- V24: XFER with `a` not 0. -/
theorem test_illformed_a : (fieldsOf 0x80100#20).illFormed = some .reservedBitOfA := by decide

/-- V27: SETCUR with `b[4] = 1`. -/
theorem test_illformed_b : (fieldsOf 0xC0010#20).illFormed = some .reservedBitOfB := by decide

theorem test_illformed_not_wellformed :
    (fieldsOf 0xE0000#20).wellFormed = false ∧ (fieldsOf 0x80100#20).wellFormed = false ∧
    (fieldsOf 0xC0010#20).wellFormed = false ∧ (fieldsOf 0xC010F#20).wellFormed = true := by decide

/-- R7: a mask must be one bit of the low nibble, each mask in its turn. -/
theorem test_illformed_mask_not_a_bit :
    ({ cfg with bitRs := 0x10#8 } : Config).masksOk = false ∧ ({ cfg with bitRw := 0x00#8 } : Config).masksOk = false ∧
    ({ cfg with bitEn := 0x06#8 } : Config).masksOk = false ∧ ({ cfg with bitBl := 0x80#8 } : Config).masksOk = false ∧
    cfg.masksOk = true := by decide

/-- R7: the masks differ, each pair in its turn. -/
theorem test_illformed_masks_equal :
    ({ cfg with bitRs := cfg.bitRw } : Config).masksOk = false ∧ ({ cfg with bitRs := cfg.bitEn } : Config).masksOk = false ∧
    ({ cfg with bitRs := cfg.bitBl } : Config).masksOk = false ∧ ({ cfg with bitRw := cfg.bitEn } : Config).masksOk = false ∧
    ({ cfg with bitRw := cfg.bitBl } : Config).masksOk = false ∧ ({ cfg with bitEn := cfg.bitBl } : Config).masksOk = false := by
  decide

/-- COMMAND and CHARACTER must differ. -/
theorem test_illformed_modes_equal :
    ({ cfg with modeCommand := true } : Config).modesOk = false ∧
    ({ cfg with modeCommand := true } : Config).admissible = false ∧ cfg.modesOk = true := by decide

/-- R6: `T_CLEAR_MS >= 1`. -/
theorem test_illformed_clear_delay : (Config.defaultWith 0).admissible = false ∧ cfg.admissible = true := by decide

/-! ### Decoding, the words written out bit by bit as `op a b` (R80 to R82) -/

theorem test_decode_llow : decode 0b0001_00000000_00000001#20 = .ok (.llow .sda) := by decide
theorem test_decode_lrel : decode 0b0010_00000000_00000001#20 = .ok (.lrel .sda) := by decide
theorem test_decode_lread : decode 0b0011_00000000_00000000#20 = .ok (.lread .scl) := by decide
theorem test_decode_delay : decode 0b0100_00000000_00000000#20 = .ok .delay := by decide
theorem test_decode_start : decode 0b0101_00000000_00000000#20 = .ok .start := by decide
theorem test_decode_stop : decode 0b0110_00000000_00000000#20 = .ok .stop := by decide
theorem test_decode_restart : decode 0b0111_00000000_00000000#20 = .ok .restart := by decide
theorem test_decode_xfer : decode 0b1000_00000000_10110000#20 = .ok (.xfer 0xB0#8) := by decide
theorem test_decode_write : decode 0b1001_00100111_00001000#20 = .ok (.write 0x27#7 0x08#8) := by decide
theorem test_decode_sendb : decode 0b1010_00000001_01000001#20 = .ok (.sendb true 0x41#8) := by decide
theorem test_decode_sendb_command : decode 0b1010_00000000_00000011#20 = .ok (.sendb false 0x03#8) := by decide
theorem test_decode_clear : decode 0b1011_00000000_00000000#20 = .ok .clear := by decide
theorem test_decode_setcur : decode 0b1100_00000001_00000101#20 = .ok (.setcur .line1 5#4) := by decide
theorem test_decode_init : decode 0b1101_00000000_00000000#20 = .ok .init := by decide

/-- V20 to V23. -/
theorem test_decode_illegal_opcodes_and_bits :
    [0x00000#20, 0xE0000#20, 0xF0000#20, 0xFFFFF#20].map decode = List.replicate 4 (.error .reservedOpcode) ∧
    [0x10002#20, 0x40001#20, 0x60001#20, 0x70001#20, 0xB0001#20].map decode
      = List.replicate 5 (.error .reservedBitOfB) ∧
    [0x10100#20, 0x50100#20, 0xD0100#20].map decode = List.replicate 3 (.error .reservedBitOfA) := by decide

/-- V25 to V28: the words just past the largest legal operands of WRITE, SENDB and SETCUR. -/
theorem test_decode_just_out_of_range :
    decode 0x98000#20 = .error .reservedBitOfA ∧ decode 0xA0200#20 = .error .reservedBitOfA ∧
    decode 0xC0010#20 = .error .reservedBitOfB ∧ decode 0xC0200#20 = .error .reservedBitOfA := by decide

/-- The encoder writes the words of R97 and V18, V19. -/
theorem test_encode :
    encode (.llow .sda) = 0x10001#20 ∧ encode (.write 0x27#7 0x08#8) = 0x92708#20 ∧
    encode (.sendb true 0xFF#8) = 0xA01FF#20 ∧ encode (.setcur .line1 15#4) = 0xC010F#20 := by decide

/-- A table word is fetched and run as the first command after reset. -/
theorem test_first_command_after_reset :
    step (State.reset.withFetchWord 20 0x40000) = exec .delay State.reset := rfl

/-! ### Line helpers (95_test_vectors.md 3.2) -/

/-- V29a. -/
theorem test_llow_sda :
    seen (exec (.llow .sda) (idleAt cfg .rel .rel (nothing 2) [])) left = some ⟨.rel, .low, 0x5A#8, false, true, some .done⟩ := by
  decide

/-- V29d. -/
theorem test_llow_scl :
    seen (exec (.llow .scl) (idleAt cfg .rel .rel (nothing 2) [])) left = some ⟨.low, .rel, 0x5A#8, false, true, some .done⟩ := by
  decide

/-- V29c. -/
theorem test_lrel_sda :
    seen (exec (.lrel .sda) (idleAt cfg .rel .low (nothing 2) [])) left = some ⟨.rel, .rel, 0x5A#8, false, true, some .done⟩ := by
  decide

/-- V29f: the block's own driver wins. -/
theorem test_lread_own_driver :
    seen (exec (.lread .sda) (idleAt cfg .rel .low (nothing 2) [])) left
      = some ⟨.rel, .low, 0x5A#8, false, false, some (.doneWith false)⟩ := by decide

/-- V29g: another device pulls the line. -/
theorem test_lread_pulled :
    seen (exec (.lread .sda) (idleAt cfg .rel .rel (dataLow 2) [])) left
      = some ⟨.rel, .rel, 0x5A#8, false, false, some (.doneWith false)⟩ := by decide

/-- V29i: one request of `T_BUS_US` microseconds, nothing else. -/
theorem test_delay :
    seen (exec .delay (idleAt cfg .low .rel (nothing 2) [])) (fun t => (left t, t.outputs.dlyReq))
      = some (⟨.low, .rel, 0x5A#8, false, true, some .done⟩, some ⟨false, 1#16⟩) := by decide

/-! ### Bus engine (95_test_vectors.md 3.3, 3.4) -/

/-- V31b: entered after a transfer. -/
theorem test_start :
    seen (exec .start (idleAt cfg .low .rel (nothing 7) [])) (fun t => (setTrace t, left t))
      = some ([(.rel, .rel), (.rel, .low), (.low, .low)], ⟨.low, .low, 0x5A#8, false, true, some .done⟩) := by decide

/-- V33a: the literal sequence. -/
theorem test_stop :
    seen (exec .stop (idleAt cfg .low .rel (nothing 7) [])) (fun t => (setTrace t, left t))
      = some ([(.rel, .rel), (.rel, .rel)], ⟨.rel, .rel, 0x5A#8, false, true, some .done⟩) := by decide

/-- V34a: data driven low first. -/
theorem test_stop_low_first :
    seen (exec .stop (idleAt cfgLowFirst .low .rel (nothing 7) [])) (fun t => (setTrace t, left t))
      = some ([(.low, .low), (.rel, .low), (.rel, .rel)], ⟨.rel, .rel, 0x5A#8, false, true, some .done⟩) := by decide

/-- V32a, as V31c. -/
theorem test_restart :
    seen (exec .restart (idleAt cfg .rel .low (nothing 7) [])) (fun t => (setTrace t, left t))
      = some ([(.rel, .low), (.rel, .low), (.low, .low)], ⟨.low, .low, 0x5A#8, false, true, some .done⟩) := by decide

/-- The pairs of V30 and V35: bits 1, 0, 1, 1, 0, 0, 0, 0, then the acknowledgment slot. -/
def setsOfB0 : List (Drive × Drive) :=
  [true, false, true, true, false, false, false, false].flatMap bitSets ++ ackSets

/-- V35 (V30's trace with the sample 1). -/
theorem test_xfer_bit_order :
    seen (exec (.xfer 0xB0#8) (idleAt cfg .low .low (nothing 55) [])) setTrace = some setsOfB0 := by decide +kernel

/-- V39e: a stuck-low data line reads as an acknowledgment. -/
theorem test_xfer_stuck_data :
    seen (exec (.xfer 0x00#8) (idleAt cfg .low .low (dataLow 55) [])) left
      = some ⟨.low, .rel, 0x00#8, false, false, some (.doneWith false)⟩ := by decide +kernel

/-! ### WRITE (95_test_vectors.md 3.5) -/

/-- The pairs of V8: start, `0x4E`, slot, `0x08`, slot, stop. -/
def setsOfV8 : List (Drive × Drive) :=
  [(.rel, .rel), (.rel, .low), (.low, .low)]
  ++ [false, true, false, false, true, true, true, false].flatMap bitSets ++ ackSets
  ++ [false, false, false, false, true, false, false, false].flatMap bitSets ++ ackSets
  ++ [(.rel, .rel), (.rel, .rel)]

/-- V8's pad trace, from an idle bus under E_NONE (V40: the same trace). -/
theorem test_write_trace :
    seen (exec (.write 0x27#7 0x08#8) (idleAt cfg .rel .rel (nothing 119) [])) setTrace = some setsOfV8 := by
  decide +kernel

/-- V43: first slot acknowledged, second not; `ACKBIT` holds the second sample only. -/
theorem test_write_second_ack :
    seen (exec (.write 0x7F#7 0x00#8) (idleAt cfg .rel .rel (nothing 56 ++ dataLow 4 ++ nothing 59) []))
      left = some ⟨.rel, .rel, 0x00#8, true, true, some .done⟩ := by decide +kernel

/-! ### Display commands (95_test_vectors.md 3.6 to 3.8) -/

/-- V50. -/
theorem test_sendb_payloads :
    payloads cfg (.sendb true 0x41#8) = [0x49#8, 0x4D#8, 0x49#8, 0x19#8, 0x1D#8, 0x19#8] := by decide +kernel

/-- V55: the end state under E_NONE, with `RSP` untouched and no response. -/
theorem test_sendb_end :
    seen (exec (.sendb true 0xA5#8) (idleAt cfg .rel .rel (nothing 715) [])) left
      = some ⟨.rel, .rel, 0x00#8, true, true, some .done⟩ := by decide +kernel

/-- V65. -/
theorem test_clear_payloads :
    payloads cfg .clear = [0x08#8, 0x0C#8, 0x08#8, 0x18#8, 0x1C#8, 0x18#8] ∧
    (uprog cfg .clear).getLast? = some (.dly .ms 1) := by decide +kernel

/-- V64. -/
theorem test_setcur_payloads :
    payloads cfg (.setcur .line1 5#4) = [0xC8#8, 0xCC#8, 0xC8#8, 0x58#8, 0x5C#8, 0x58#8] := by decide +kernel

/-- V61: the last column of line 0. -/
theorem test_setcur_last_column :
    payloads cfg (.setcur .line0 15#4) = [0x88#8, 0x8C#8, 0x88#8, 0xF8#8, 0xFC#8, 0xF8#8] := by decide +kernel

/-- V70: the nibbles the reference display side counts: `0, 3, 0, 3, 0, 3, 0, 2, 0, 6, 2, 8, 0, C, 0, 1`. -/
theorem test_init_nibbles :
    (nibblesSeen cfg.bitEn (payloads cfg .init)).map (fun n => n.toNat / 16)
      = [0, 3, 0, 3, 0, 3, 0, 2, 0, 6, 2, 8, 0, 12, 0, 1] := by decide +kernel

/-- 3.9: the counts of INIT. -/
theorem test_init_counts :
    (uprog cfg .init).length = 5713 ∧ (uprog cfg .init).countP MicroOp.isSmp = 96 := by decide +kernel

/-! ### Single micro-grain steps -/

/-- P5 row 1: an illegal word. -/
theorem test_illegal_word :
    seen (step (idleAt cfg .rel .low (nothing 2) [.present 0xE0000#20 true])) (fun t => (t.illegal, t.busy, t.cmd, left t))
      = some (true, false, 0x40000#20, ⟨.rel, .low, 0x5A#8, false, true, some .none⟩) := by decide

/-- P5 row 3: the status after a command served with `ILLEGAL = 1` (a short command instead of the WRITE). -/
theorem test_status_after_illegal :
    seen (step { idle with illegal := true, port := [.call 0x40000#20] }) State.status = some 0b10000#5 := by decide

/-- R28: the last micro-operation of START completes it. -/
theorem test_last_step :
    seen (step ending) (fun t => (t.busy, t.upc, t.outputs.done, t.outputs.rspValid)) = some (false, 6, true, false) := by
  decide

/-- R232: `rst` abandons a running command. -/
theorem test_reset_step :
    seen (step { running with drvScl := .low, port := [.rst] }) (fun t => (t.busy, t.drvScl, t.drvSda, t.upc))
      = some (false, .rel, .rel, 0) := rfl

/-- R111: a `Dly` without the timer's answer makes its request once and holds `upc`; `rst` between the request and the
answer abandons it (R232). -/
theorem test_delay_waits :
    seen (step waiting0) (fun t => (t.busy, t.upc, t.outputs.done, t.outputs.dlyReq))
      = some (true, 1, false, some ⟨false, 1#16⟩) ∧
    seen (step waiting1) (fun t => (t.busy, t.upc, t.outputs.done, t.outputs.dlyReq)) = some (true, 1, false, none) ∧
    seen (step { waiting1 with port := [.rst] }) (fun t => (t.busy, t.upc, t.waiting)) = some (false, 0, false) := by
  decide

/-- R111: the answer to the request of an earlier step completes the `Dly`. -/
theorem test_delay_answered :
    seen (step { waiting1 with port := [.quiet true] }) (fun t => (t.busy, t.upc, t.waiting, t.outputs.dlyReq))
      = some (true, 2, false, none) := by decide

/-- R6: with the two mode values exchanged, mode bit 0 selects the character register. -/
theorem test_mode_values_are_parameters :
    payloads { cfg with modeCommand := true, modeCharacter := false } (.sendb false 0x41#8)
      = [0x49#8, 0x4D#8, 0x49#8, 0x19#8, 0x1D#8, 0x19#8] := by decide +kernel

/-! ### Witnesses of the hypotheses of the obligations -/

theorem test_witness_EncodeOfDecodedWordIsTheWord : decode 0x97FFF#20 = .ok (.write 0x7F#7 0xFF#8) := by decide

theorem test_witness_TableRowsSelectTheirCommand :
    decode 0xC010F#20 = .ok (.setcur .line1 15#4) ∧ matchesRow 0x97FFF#20 (.write 0 0) = true ∧
    ∀ i, matchesRow 0xFFFFF#20 i = false := by
  refine ⟨by decide, by decide, fun i => ?_⟩
  cases i <;> simp [matchesRow, tableRow]

theorem test_witness_CursorByteOfEveryPosition :
    cfg.ddramLine0 = 0x80#8 ∧ cfg.ddramLine1 = 0xC0#8 ∧ cursorByte cfg .line0 15#4 = 0x8F#8 ∧
    cursorByte cfg .line1 0#4 = 0xC0#8 := by decide

theorem test_witness_EveryCursorPositionIsOnTheDisplay :
    cfg.lines = 2 ∧ cfg.cols = 16 ∧ cfg.hasPosition .line1 15#4 = true ∧ DispLine.line0.number = 0 ∧
    (15#4).toNat = 15 ∧ cfg.charactersLeft 15#4 = 1 := by decide

theorem test_witness_NibbleByteLayoutUnderAnyLegalMasks :
    cfg.masksOk = true ∧ highNibbleByte cfg cfg.modeCharacter 0x41#8 = 0x49#8 ∧ lowNibbleByte cfg cfg.modeCommand 0xFF#8 = 0xF8#8 := by
  decide

theorem test_witness_OnlyTheEnableBitMovesInANibbleGroup :
    cfg.masksOk = true ∧ 0x49#8 = highNibbleByte cfg cfg.modeCharacter 0x41#8 ∧ 0x19#8 = lowNibbleByte cfg cfg.modeCharacter 0x41#8 := by
  decide

theorem test_witness_PadOutputsFollowTheDrivers : driveLow .rel = false ∧ driveLow .low = true := by decide

theorem test_witness_MicroOperationEffects :
    Line.scl ≠ .sda ∧ (∀ l d, MicroOp.shl ≠ .set l d) ∧ MicroOp.shl ≠ .setTop := by
  refine ⟨by decide, fun l d => ?_, by decide⟩
  intro h
  cases h

theorem test_witness_SteppingOfTheBlock_accept :
    idle.busy = false ∧ ({ idle with port := [.present 0x92708#20 true] } : State).port = [.present 0x92708#20 true] ∧
    decode 0x92708#20 = .ok (.write 0x27#7 0x08#8) := by decide

theorem test_witness_SteppingOfTheBlock_illegal :
    idle.busy = false ∧ ({ idle with port := [.present 0x98008#20 true] } : State).port = [.present 0x98008#20 true] ∧
    decode 0x98008#20 = .error .reservedBitOfA := by decide

theorem test_witness_SteppingOfTheBlock_operation :
    running.busy = true ∧ running.port.head? ≠ some .rst ∧
    (MicroOp.set .sda .low).isDly = false ∧ decode running.cmd = .ok .start ∧
    (uprog running.cfg .start)[running.upc]? = some (.set .sda .low) ∧
    running.upc + 1 < (uprog running.cfg .start).length := by decide

theorem test_witness_SteppingOfTheBlock_last :
    ending.busy = true ∧ ending.port.head? ≠ some .rst ∧ ending.timerAnswers = true ∧ decode ending.cmd = .ok .start ∧
    (uprog ending.cfg .start)[ending.upc]? = some (.dly .us 1) ∧
    ending.upc + 1 = (uprog ending.cfg .start).length := by decide

theorem test_witness_AStepRunsTheDecodedCommand :
    idle.busy = false ∧ ({ idle with port := [.call 0x60000#20] } : State).port = [.call 0x60000#20] ∧
    decode 0x60000#20 = .ok .stop ∧ decodeTableWord 20 0x60000 = some .stop := by decide

theorem test_witness_AcceptanceOnlyLatchesTheWord :
    idle.busy = false ∧ ({ idle with port := [.present 0x800FF#20 true] } : State).port = [.present 0x800FF#20 true] ∧
    decode 0x800FF#20 = .ok (.xfer 0xFF#8) := by decide

theorem test_witness_AWordPresentedWhileBusyIsNotLookedAt : running.busy = true := by decide

theorem test_witness_AnIllegalWordSetsTheFlagAndNothingElse_present :
    idle.busy = false ∧ ({ idle with port := [.present 0xE0000#20 true] } : State).port = [.present 0xE0000#20 true] ∧
    decode 0xE0000#20 = .error .reservedOpcode := by decide

theorem test_witness_AnIllegalWordSetsTheFlagAndNothingElse_call :
    idle.busy = false ∧ ({ idle with port := [.call 0xC0010#20] } : State).port = [.call 0xC0010#20] ∧
    decode 0xC0010#20 = .error .reservedBitOfB := by decide

theorem test_witness_IllegalIsSticky :
    ∃ t, ({ running with illegal := true } : State).illegal = true ∧
      ({ running with illegal := true } : State).port.head? ≠ some .rst ∧
      step { running with illegal := true } = .next t := ⟨_, rfl, by decide, rfl⟩

theorem test_witness_OnlyAnIllegalWordSetsTheFlag :
    ∃ t, idle.illegal = false ∧ step { idle with port := [.call 0x10002#20] } = .next t ∧ t.illegal = true :=
  ⟨_, rfl, rfl, rfl⟩

theorem test_witness_AResetStepReleasesTheBlock :
    ({ running with port := [.rst, .quiet false] } : State).port = [.rst, .quiet false] := rfl

theorem test_witness_AnIdleBlockWaits :
    idle.busy = false ∧ idle.port = [] ∧ ({ idle with port := [.quiet false] } : State).port = [.quiet false] := by decide

theorem test_witness_OneEventPerStep_busy : ∃ t, running.busy = true ∧ step running = .next t := ⟨_, rfl, rfl⟩

theorem test_witness_OneEventPerStep_no_call :
    ∃ t, (∀ w rest, ({ idle with port := [.present 0x50000#20 true] } : State).port ≠ .call w :: rest) ∧
      step { idle with port := [.present 0x50000#20 true] } = .next t := by
  refine ⟨_, fun w rest h => ?_, rfl⟩
  cases h

theorem test_witness_EveryStepKeepsTheSequencerInOrder :
    ∃ t, running.sequencerOk = true ∧ running.busy = true ∧ step running = .next t := ⟨_, rfl, rfl, rfl⟩

theorem test_witness_NoStepStops : running.sequencerOk = true ∧ ending.sequencerOk = true ∧ idle.sequencerOk = true := by
  decide

/-- Clause 1, without and with a request made; clause 2, with `k = 0` and more. -/
theorem test_witness_ADelayEndsWithTheTimersAnswer :
    waiting0.busy = true ∧ waiting0.waiting = false ∧ waiting0.port = [.quiet false] ∧ decode waiting0.cmd = .ok .start ∧
    (uprog waiting0.cfg .start)[waiting0.upc]? = some (.dly .us 1) ∧
    waiting0.upc + 1 < (uprog waiting0.cfg .start).length ∧ waiting1.waiting = true ∧
    ({ waiting1 with port := [.present 0x40000#20 false] } : State).port = [.present 0x40000#20 false] := by decide

theorem test_witness_NoStepWritesTheConfiguration : ∃ t, step ending = .next t := ⟨_, rfl⟩

theorem test_witness_ABlockingCallIsItsMicroSteps :
    idle.busy = false ∧ decode 0x70000#20 = .ok .restart := by decide

theorem test_witness_BusyUntilTheLastMicroOperation :
    idle.busy = false ∧ decode 0x50000#20 = .ok .start ∧ 0 < (uprog idle.cfg .start).length ∧
    5 < (uprog idle.cfg .start).length := by decide

/-- The only hypothesis of the statements `LlowDrivesItsLineLow` to `BitsGoOutMostSignificantFirst`,
`WriteIsOneTransaction` to `InitRunsTheHandshake` and `ResponsesComeFromLreadAndXferOnly`. -/
theorem test_witness_an_idle_block : idle.busy = false ∧ (idleAt cfgLowFirst .low .low [] []).busy = false := by decide

theorem test_witness_LrelReleasesItsLine : idle.drv .sda = .rel ∧ idle.drv .scl = .rel := by decide

/-- The last clause: a block in the clear delay of CLEAR. -/
theorem test_witness_ClearSendsTheClearCodeAndWaits :
    clearing.busy = true ∧ decode clearing.cmd = .ok .clear ∧ clearing.upc + 1 = (uprog clearing.cfg .clear).length ∧
    0 < (uprog idle.cfg .clear).length := by decide +kernel

theorem test_witness_StopLeavesBothLinesReleased :
    idle.cfg.stopSdaLowFirst = false ∧ (idleAt cfgLowFirst .low .rel [] []).cfg.stopSdaLowFirst = true := by decide

/-- V35: the clock-high period of bit 7, of bit 0, and of the acknowledgment slot. -/
theorem test_witness_BitsGoOutMostSignificantFirst :
    seen (exec (.xfer 0xB0#8) (idleAt cfg .low .low (nothing 55) [])) (driversAt [3, 46, 51, 53])
      = some [some (.rel, .rel), some (.rel, .low), some (.rel, .rel), some (.rel, .rel)] := by decide +kernel

/-- V35: a step in which the data driver changes, the clock low (the set-up of bit 6). -/
theorem test_witness_DataChangesOnlyWhileTheClockIsLow :
    (idleAt cfg .low .low (nothing 55) []).busy = false ∧ (idleAt cfg .low .low (nothing 55) []).drvScl = .low ∧
    seen (exec (.xfer 0xB0#8) (idleAt cfg .low .low (nothing 55) [])) (driversAt [7, 8])
      = some [some (.low, .rel), some (.low, .low)] := by decide +kernel

theorem test_witness_DelaysAreOfThreeKinds : (TimeUnit.us, 1) ∈ delaysAsked (uprog cfg .delay) := by decide

theorem test_witness_OnlyTheDataLineIsReadInsideACommand :
    .smp .scl .rsp ∈ uprog cfg (.lread .scl) ∧ .smp .sda .ackbit ∈ uprog cfg (.xfer 0xB0#8) := by decide

theorem test_witness_ResponsesComeFromLreadAndXferOnly :
    (∀ l, Instr.stop ≠ .lread l) ∧ ∀ v, Instr.stop ≠ .xfer v := by
  refine ⟨fun l h => ?_, fun v h => ?_⟩ <;> cases h

theorem test_witness_AcknowledgmentsChangeNoPadSequence :
    (idleAt cfg .low .low (nothing 55) []).busy = false ∧ (idleAt cfg .low .low (dataLow 55) []).busy = false ∧
    (idleAt cfg .low .low (dataLow 55) []).cfg = (idleAt cfg .low .low (nothing 55) []).cfg ∧
    (idleAt cfg .low .low (dataLow 55) []).drvScl = (idleAt cfg .low .low (nothing 55) []).drvScl ∧
    (idleAt cfg .low .low (dataLow 55) []).drvSda = (idleAt cfg .low .low (nothing 55) []).drvSda := by decide

/-- V31a and V31c. -/
theorem test_witness_StartConditionFromAnIdleBus :
    idle.busy = false ∧ (∀ k, k ≤ 6 → idle.pullAfter k = ⟨false, false⟩) ∧ idle.drvScl = .rel ∧ idle.drvSda = .rel ∧
    (idleAt cfg .rel .low (nothing 7) []).drvSda = .low := by decide

/-- V33a and V34a. -/
theorem test_witness_StopConditionDependsOnDataLowFirst :
    (idleAt cfg .low .rel (nothing 7) []).busy = false ∧ (idleAt cfg .low .rel (nothing 7) []).drvScl = .low ∧
    (idleAt cfg .low .rel (nothing 7) []).drvSda = .rel ∧
    (∀ k, k ≤ 6 → (idleAt cfg .low .rel (nothing 7) []).pullAfter k = ⟨false, false⟩) ∧
    (∀ k, k ≤ 6 → (idleAt cfgLowFirst .low .rel (nothing 7) []).pullAfter k = ⟨false, false⟩) := by decide

/-- V8 under E_ACK: the receiver pulls in both acknowledgment slots. -/
def acknowledged : State :=
  idleAt cfg .rel .rel (nothing 56 ++ dataLow 4 ++ nothing 50 ++ dataLow 4 ++ nothing 7) []

theorem test_witness_AReceiverReadsTheFrameOfAWrite :
    acknowledged.busy = false ∧ acknowledged.drvScl = .rel ∧ acknowledged.drvSda = .rel ∧
    ∀ k, k ≤ 120 → acknowledged.pullAfter k
      = ⟨false, (decide (56 ≤ k ∧ k < 60) && true) || (decide (110 ≤ k ∧ k < 114) && true)⟩ := by
  refine ⟨rfl, rfl, rfl, ?_⟩
  decide +kernel

end Sys2Proof.Tests
end

section
/-! The nibble bytes of a send (spec/30_encoding.md R89 to R92): their meeting with every mask that spec/00_scope.md R7
admits, and O9. -/

namespace Sys2Proof

theorem isLowNibbleBit_iff {k : Byte} :
    isLowNibbleBit k = true ↔ k = 0x01#8 ∨ k = 0x02#8 ∨ k = 0x04#8 ∨ k = 0x08#8 := by
  simp [isLowNibbleBit, or_assoc]

theorem isLowNibbleBit_and_highNibble {k : Byte} (hk : isLowNibbleBit k = true) : k &&& 0xF0#8 = 0#8 := by
  obtain rfl | rfl | rfl | rfl := isLowNibbleBit_iff.mp hk <;> decide

/-- Two single bits meet in nothing unless they are the same bit. -/
theorem isLowNibbleBit_and_of_ne {j k : Byte} (hj : isLowNibbleBit j = true) (hk : isLowNibbleBit k = true)
    (hne : j ≠ k) : j &&& k = 0#8 := by
  rw [isLowNibbleBit_iff] at hj hk
  revert hne
  obtain rfl | rfl | rfl | rfl := hj <;> obtain rfl | rfl | rfl | rfl := hk <;> decide

/-- R7's constraint on the masks, clause by clause: four bits of the low nibble, no two the same. -/
structure Config.LegalMasks (c : Config) : Prop where
  rs_bit : isLowNibbleBit c.bitRs = true
  rw_bit : isLowNibbleBit c.bitRw = true
  en_bit : isLowNibbleBit c.bitEn = true
  bl_bit : isLowNibbleBit c.bitBl = true
  rs_ne_rw : c.bitRs ≠ c.bitRw
  rs_ne_en : c.bitRs ≠ c.bitEn
  rs_ne_bl : c.bitRs ≠ c.bitBl
  rw_ne_en : c.bitRw ≠ c.bitEn
  rw_ne_bl : c.bitRw ≠ c.bitBl
  en_ne_bl : c.bitEn ≠ c.bitBl

theorem Config.legalMasks_of_masksOk {c : Config} (h : c.masksOk = true) : c.LegalMasks := by
  simp only [Config.masksOk, Bool.and_eq_true, bne_iff_ne] at h
  obtain ⟨⟨⟨⟨⟨⟨⟨⟨⟨rsBit, rwBit⟩, enBit⟩, blBit⟩, rsRw⟩, rsEn⟩, rsBl⟩, rwEn⟩, rwBl⟩, enBl⟩ := h
  exact ⟨rsBit, rwBit, enBit, blBit, rsRw, rsEn, rsBl, rwEn, rwBl, enBl⟩

namespace Machine

theorem registerSelect_and (c : Config) (m : Mode) (k : Byte) :
    registerSelect c m &&& k = if m = c.modeCharacter then c.bitRs &&& k else 0#8 := by
  unfold registerSelect
  split
  · rfl
  · exact BitVec.zero_and

/-- The register-select part meets no byte that `BIT_RS` does not meet. -/
theorem registerSelect_and_eq_zero {c : Config} (m : Mode) {k : Byte} (h : c.bitRs &&& k = 0#8) :
    registerSelect c m &&& k = 0#8 := by
  rw [registerSelect_and, h, ite_self]

/-- The common form of the two nibble bytes (R89): the high nibble of `x` under the control bits. -/
def nibbleByte (c : Config) (m : Mode) (x : Byte) : Byte := registerSelect c m ||| (x &&& 0xF0#8) ||| c.bitBl

theorem highNibbleByte_eq_nibbleByte (c : Config) (m : Mode) (v : Byte) : highNibbleByte c m v = nibbleByte c m v := rfl

theorem lowNibbleByte_eq_nibbleByte (c : Config) (m : Mode) (v : Byte) :
    lowNibbleByte c m v = nibbleByte c m (v <<< 4) := rfl

theorem nibbleByte_and (c : Config) (m : Mode) (x k : Byte) :
    nibbleByte c m x &&& k = registerSelect c m &&& k ||| x &&& (0xF0#8 &&& k) ||| c.bitBl &&& k := by
  rw [nibbleByte, BitVec.and_or_distrib_right, BitVec.and_or_distrib_right, BitVec.and_assoc x]

/-- A control bit of a nibble byte does not depend on the data. -/
theorem nibbleByte_and_lowNibbleBit (c : Config) (m : Mode) (x : Byte) {k : Byte} (hk : isLowNibbleBit k = true) :
    nibbleByte c m x &&& k = registerSelect c m &&& k ||| c.bitBl &&& k := by
  rw [nibbleByte_and, BitVec.and_comm 0xF0#8, isLowNibbleBit_and_highNibble hk, BitVec.and_zero, BitVec.or_zero]

section
variable {c : Config} (h : c.LegalMasks) (m : Mode) (x : Byte)
include h

theorem nibbleByte_and_highNibble : nibbleByte c m x &&& 0xF0#8 = x &&& 0xF0#8 := by
  have hrs := registerSelect_and_eq_zero m (isLowNibbleBit_and_highNibble h.rs_bit)
  rw [nibbleByte_and, hrs, isLowNibbleBit_and_highNibble h.bl_bit, BitVec.and_self, BitVec.zero_or, BitVec.or_zero]

theorem nibbleByte_and_bitBl : nibbleByte c m x &&& c.bitBl = c.bitBl := by
  have hrs := registerSelect_and_eq_zero m (isLowNibbleBit_and_of_ne h.rs_bit h.bl_bit h.rs_ne_bl)
  rw [nibbleByte_and_lowNibbleBit c m x h.bl_bit, hrs, BitVec.and_self, BitVec.zero_or]

/-- A control bit other than register select and backlight is clear: `BIT_RW` and `BIT_EN` are the two (R90, R91). -/
theorem nibbleByte_and_eq_zero {k : Byte} (hk : isLowNibbleBit k = true) (hrs : c.bitRs ≠ k) (hbl : c.bitBl ≠ k) :
    nibbleByte c m x &&& k = 0#8 := by
  have hsel := registerSelect_and_eq_zero m (isLowNibbleBit_and_of_ne h.rs_bit hk hrs)
  rw [nibbleByte_and_lowNibbleBit c m x hk, hsel, isLowNibbleBit_and_of_ne h.bl_bit hk hbl, BitVec.or_zero]

theorem nibbleByte_and_bitRw : nibbleByte c m x &&& c.bitRw = 0#8 :=
  nibbleByte_and_eq_zero h m x h.rw_bit h.rs_ne_rw h.rw_ne_bl.symm

theorem nibbleByte_and_bitEn : nibbleByte c m x &&& c.bitEn = 0#8 :=
  nibbleByte_and_eq_zero h m x h.en_bit h.rs_ne_en h.en_ne_bl.symm

theorem nibbleByte_and_bitRs : nibbleByte c m x &&& c.bitRs = registerSelect c m := by
  have hbl := isLowNibbleBit_and_of_ne h.bl_bit h.rs_bit h.rs_ne_bl.symm
  rw [nibbleByte_and_lowNibbleBit c m x h.rs_bit, hbl, BitVec.or_zero, registerSelect_and, BitVec.and_self,
    registerSelect]

end

/-- What holds of every byte of the common form holds of the two nibble bytes. -/
theorem eq_nibbleByte_of_high_or_low {c : Config} {m : Mode} {v n : Byte}
    (hn : n = highNibbleByte c m v ∨ n = lowNibbleByte c m v) : ∃ x, n = nibbleByte c m x := by
  obtain rfl | rfl := hn
  · exact ⟨v, highNibbleByte_eq_nibbleByte c m v⟩
  · exact ⟨v <<< 4, lowNibbleByte_eq_nibbleByte c m v⟩

/-- Settles O9: both nibble bytes have the common form, and each mask picks out one part of it. -/
theorem nibbleByteLayoutUnderAnyLegalMasks : Obligations.NibbleByteLayoutUnderAnyLegalMasks := by
  intro c m v hc
  have h := Config.legalMasks_of_masksOk hc
  refine ⟨nibbleByte_and_highNibble h m v, nibbleByte_and_highNibble h m (v <<< 4), fun n hn => ?_⟩
  obtain ⟨x, rfl⟩ := eq_nibbleByte_of_high_or_low hn
  exact ⟨nibbleByte_and_bitBl h m x, nibbleByte_and_bitRw h m x, nibbleByte_and_bitEn h m x, nibbleByte_and_bitRs h m x⟩

end Machine

end Sys2Proof
end

section
/-! A word the decoder accepts is the word of the command it decodes to (spec/30_encoding.md R80 to R82, R99, R100):
decoding takes the fields apart, and the reserved bits of R82 being zero, encoding puts the same fields together. -/

namespace Sys2Proof

theorem illFormed_eq_none_iff {f : Fields} :
    f.illFormed = none ↔ ∃ ra rb, reservedBits f.op = some (ra, rb) ∧ f.a &&& ra = 0#8 ∧ f.b &&& rb = 0#8 := by
  unfold Fields.illFormed
  cases hr : reservedBits f.op with
  | none => simp
  | some masks =>
    obtain ⟨ra, rb⟩ := masks
    simp [ite_eq_iff]

theorem decode_eq_ok_iff {w : CmdWord} {i : Instr} :
    decode w = .ok i ↔ (fieldsOf w).illFormed = none ∧ commandOf (fieldsOf w) = some i := by
  unfold decode
  cases (fieldsOf w).illFormed <;> cases commandOf (fieldsOf w) <;> simp

theorem wordOf_fieldsOf (w : CmdWord) : wordOf (fieldsOf w) = w := by
  have hhigh : w.extractLsb' 16 4 ++ w.extractLsb' 8 8 = w.extractLsb' 8 12 :=
    BitVec.extractLsb'_append_extractLsb'_eq_extractLsb' rfl
  have hall : w.extractLsb' 8 12 ++ w.extractLsb' 0 8 = w.extractLsb' 0 20 :=
    BitVec.extractLsb'_append_extractLsb'_eq_extractLsb' rfl
  simp only [wordOf, fieldsOf]
  rw [hhigh, hall, BitVec.extractLsb'_eq_self]

/-! An operand field with its reserved bits zero is the operand read from it, encoded again (R82). -/

theorem eq_zero_of_and_0xFF : ∀ {a : Byte}, a &&& 0xFF#8 = 0#8 → 0#8 = a := by decide

theorem byteOfBit_of_and_0xFE : ∀ {a : Byte}, a &&& 0xFE#8 = 0#8 → byteOfBit (a.getLsbD 0) = a := by decide

theorem zeroExtend_of_and_0x80 : ∀ {a : Byte}, a &&& 0x80#8 = 0#8 → (a.extractLsb' 0 7).zeroExtend 8 = a := by decide

theorem zeroExtend_of_and_0xF0 : ∀ {b : Byte}, b &&& 0xF0#8 = 0#8 → (b.extractLsb' 0 4).zeroExtend 8 = b := by decide

@[simp] theorem bitOfLine_lineOfBit (b : Bool) : bitOfLine (lineOfBit b) = b := by cases b <;> rfl

@[simp] theorem bitOfDispLine_dispLineOfBit (b : Bool) : bitOfDispLine (dispLineOfBit b) = b := by cases b <;> rfl

theorem byteOfBit_bitOfLine_of_and_0xFE {b : Byte} (h : b &&& 0xFE#8 = 0#8) :
    byteOfBit (bitOfLine (lineOfBit (b.getLsbD 0))) = b := by
  rw [bitOfLine_lineOfBit, byteOfBit_of_and_0xFE h]

theorem byteOfBit_bitOfDispLine_of_and_0xFE {a : Byte} (h : a &&& 0xFE#8 = 0#8) :
    byteOfBit (bitOfDispLine (dispLineOfBit (a.getLsbD 0))) = a := by
  rw [bitOfDispLine_dispLineOfBit, byteOfBit_of_and_0xFE h]

/-- Well-formed fields are the fields their command is encoded in: the cases are the thirteen opcodes of R81, in order,
and each operand field is the operand again because its reserved bits are zero. -/
theorem operandFields_of_commandOf {f : Fields} {i : Instr} (hf : f.illFormed = none) (hc : commandOf f = some i) :
    operandFields i = f := by
  obtain ⟨ra, rb, hr, ha, hb⟩ := illFormed_eq_none_iff.mp hf
  obtain ⟨⟨⟨op, hop⟩⟩, a, b⟩ := f
  change op < 16 at hop
  interval_cases op <;> cases hr <;> cases hc
  · exact congrArg₂ (Fields.mk 0x1#4) (eq_zero_of_and_0xFF ha) (byteOfBit_bitOfLine_of_and_0xFE hb)
  · exact congrArg₂ (Fields.mk 0x2#4) (eq_zero_of_and_0xFF ha) (byteOfBit_bitOfLine_of_and_0xFE hb)
  · exact congrArg₂ (Fields.mk 0x3#4) (eq_zero_of_and_0xFF ha) (byteOfBit_bitOfLine_of_and_0xFE hb)
  · exact congrArg₂ (Fields.mk 0x4#4) (eq_zero_of_and_0xFF ha) (eq_zero_of_and_0xFF hb)
  · exact congrArg₂ (Fields.mk 0x5#4) (eq_zero_of_and_0xFF ha) (eq_zero_of_and_0xFF hb)
  · exact congrArg₂ (Fields.mk 0x6#4) (eq_zero_of_and_0xFF ha) (eq_zero_of_and_0xFF hb)
  · exact congrArg₂ (Fields.mk 0x7#4) (eq_zero_of_and_0xFF ha) (eq_zero_of_and_0xFF hb)
  · exact congrArg₂ (Fields.mk 0x8#4) (eq_zero_of_and_0xFF ha) rfl
  · exact congrArg₂ (Fields.mk 0x9#4) (zeroExtend_of_and_0x80 ha) rfl
  · exact congrArg₂ (Fields.mk 0xA#4) (byteOfBit_of_and_0xFE ha) rfl
  · exact congrArg₂ (Fields.mk 0xB#4) (eq_zero_of_and_0xFF ha) (eq_zero_of_and_0xFF hb)
  · exact congrArg₂ (Fields.mk 0xC#4) (byteOfBit_bitOfDispLine_of_and_0xFE ha) (zeroExtend_of_and_0xF0 hb)
  · exact congrArg₂ (Fields.mk 0xD#4) (eq_zero_of_and_0xFF ha) (eq_zero_of_and_0xFF hb)

/-- No two words decode to one command (R100): encoding gives the word back. -/
theorem encode_of_decode {w : CmdWord} {i : Instr} (h : decode w = .ok i) : encode i = w := by
  obtain ⟨hf, hc⟩ := decode_eq_ok_iff.mp h
  rw [encode, operandFields_of_commandOf hf hc, wordOf_fieldsOf]

end Sys2Proof
end

section
/-! The operations of a step and the port: every one of them leaves the rest of the port where it is, so a law about a
state holds of it with any port. -/

namespace Sys2Proof.Machine

theorem setPort_setPort (s : State) (p q : List PortInput) : (s.setPort p).setPort q = s.setPort q := rfl

theorem effect_setPort (op : MicroOp) (s : State) (p : List PortInput) :
    (s.setPort p).effect op = (s.effect op).setPort p := by
  cases op with
  | set l d => cases l <;> rfl
  | smp l r => cases l <;> cases r <;> rfl
  | setTop => rfl
  | dly u n => rfl
  | ld v => rfl
  | shl => rfl

theorem accept_setPort (w : CmdWord) (s : State) (p : List PortInput) :
    accept w (s.setPort p) = (accept w s).setPort p := rfl

theorem rspAtCompletion_congr {s t : State} (hrsp : t.rsp = s.rsp) (hack : t.ackbit = s.ackbit) (r : Response) :
    rspAtCompletion r t = rspAtCompletion r s := by
  cases r with
  | none => exact hrsp
  | level => exact hrsp
  | ack => exact hack

theorem complete_setPort (r : Response) (s : State) (p : List PortInput) :
    complete r (s.setPort p) = (complete r s).setPort p := by
  cases r <;> rfl

end Sys2Proof.Machine
end

section
/-! What one step answers, by what it finds at the port (spec/10_state.md R28, R29): the laws of `step`, each for one
input. `step_cases` is all of them read backwards. -/

namespace Sys2Proof.Machine

section
variable {s : State} {w : CmdWord} {p : List PortInput}

theorem step_present_legal {i : Instr} {d : Bool} (hb : s.busy = false) (hp : s.port = .present w d :: p)
    (hd : decode w = .ok i) : step s = .next ((accept w s).setPort p) := by
  have h := step_present_idle (d := d) hb hd p
  rwa [← hp, setPort_self] at h

theorem step_present_illegal {e : IllFormed} {d : Bool} (hb : s.busy = false) (hp : s.port = .present w d :: p)
    (hd : decode w = .error e) : step s = .next (raiseIllegal w (s.setPort p)) := by
  simp [step, fetch, hp, presentStep, hb, hd]

/-- A blocking call of a legal word is one `exec` (log entry 3). -/
theorem step_call_legal {i : Instr} (hb : s.busy = false) (hp : s.port = .call w :: p) (hd : decode w = .ok i) :
    step s = exec i (s.setPort p) := by
  simp [step, fetch, hp, callStep, hb, hd]

theorem step_present_busy {d : Bool} (hb : s.busy = true) (hp : s.port = .present w d :: p) :
    step s = advance d (s.setPort p) := by
  simp [step, fetch, hp, presentStep, hb]

theorem step_quiet_busy {d : Bool} (hb : s.busy = true) (hp : s.port = .quiet d :: p) :
    step s = advance d (s.setPort p) := by
  simp [step, fetch, hp, quietStep, hb]

/-- A called word that finds the block busy stays at the port (R217, log entry 8). -/
theorem step_call_busy (hb : s.busy = true) (hp : s.port = .call w :: p) : step s = advance true s := by
  simp [step, fetch, hp, hb]

end

theorem step_idle_of_nothing_presented {s : State} (hb : s.busy = false)
    (hp : s.port = [] ∨ ∃ d rest, s.port = .quiet d :: rest) :
    step s = .next (idleStep (s.setPort s.port.tail)) := by
  obtain hp | ⟨d, rest, hp⟩ := hp
  · have hself : s.setPort [] = s := by rw [← hp, setPort_self]
    simp [step, fetch, hp, quietStep, hb, hself]
  · simp [step, fetch, hp, quietStep, hb]

/-- A busy block that is not reset takes one step of the running command, whatever the port presents. -/
theorem step_busy {s : State} (hb : s.busy = true) (hrst : s.port.head? ≠ some .rst) :
    ∃ p, step s = advance s.timerAnswers (s.setPort p) := by
  obtain ⟨p, hp, _⟩ | ⟨_, _, h⟩ | ⟨hidle, _⟩ | ⟨hidle, _⟩ | ⟨hidle, _⟩ | ⟨hidle, _⟩ := step_cases s
  · exact absurd (by rw [hp]; rfl) hrst
  · exact h
  all_goals exact absurd (hidle.symm.trans hb) Bool.false_ne_true

end Sys2Proof.Machine
end

section
/-! What the outside sees of a step: the pulses of R83 are those of the newest entry, and only a completion has any. -/

namespace Sys2Proof.Machine

theorem outputs_done_of_trace {s : State} {e : Entry} {es : List Entry} (h : s.trace = e :: es) :
    s.outputs.done = e.completion.pulses.1 := by
  simp [State.outputs, h]

theorem outputs_rspValid_of_trace {s : State} {e : Entry} {es : List Entry} (h : s.trace = e :: es) :
    s.outputs.rspValid = e.completion.pulses.2 := by
  simp [State.outputs, h]

theorem completionSignals_pulses (r : Response) (s : State) :
    (completionSignals r s).pulses = (true, r != .none) := by
  cases r <;> rfl

theorem complete_trace_of_cons {s : State} {e : Entry} {es : List Entry} (h : s.trace = e :: es) (r : Response) :
    (complete r s).trace = { e with completion := completionSignals r s } :: es := by
  rw [complete_trace, h, markCompletion]

/-- A completion pulses `done`, and `rsp_valid` exactly when the command has a response (R83). -/
theorem outputs_complete {s : State} {e : Entry} {es : List Entry} (h : s.trace = e :: es) (r : Response) :
    (complete r s).outputs.done = true ∧ (complete r s).outputs.rspValid = (r != .none) := by
  have htr := complete_trace_of_cons h r
  rw [outputs_done_of_trace htr, outputs_rspValid_of_trace htr, completionSignals_pulses]
  exact ⟨rfl, rfl⟩

end Sys2Proof.Machine
end

section
/-! The invariant of the sequencer (spec/10_state.md R27 to R29; spec/40_line_helpers.md R111), O27 and O28. -/

namespace Sys2Proof.Machine

theorem sequencerOk_of_idle {s : State} (hb : s.busy = false) : s.sequencerOk = !s.waiting := by
  simp [State.sequencerOk, hb]

/-- A busy block is in order when it stands at a micro-operation of a legal command, and at a `Dly` if it waits. -/
theorem sequencerOk_of_busy_at {s : State} {i : Instr} {op : MicroOp} (hb : s.busy = true)
    (hd : decode s.cmd = .ok i) (hop : (uprog s.cfg i)[s.upc]? = some op)
    (hw : s.waiting = false ∨ op.isDly = true) : s.sequencerOk = true := by
  obtain hw | hw := hw <;> simp [State.sequencerOk, hb, hd, hop, hw]

theorem accept_sequencerOk {w : CmdWord} {i : Instr} (hd : decode w = .ok i) (s : State) :
    (accept w s).sequencerOk = true :=
  sequencerOk_of_busy_at rfl hd (List.getElem?_eq_getElem (uprog_length_pos s.cfg i)) (.inl rfl)

/-- A step of a busy block that answers a state leaves the sequencer in order, whatever the state before it: it holds
at a `Dly`, completes, or moves to a micro-operation that is there. -/
theorem advance_sequencerOk {d : Bool} {s t : State} (hb : s.busy = true) (h : advance d s = .next t) :
    t.sequencerOk = true := by
  obtain ⟨_, _, ha⟩ | ⟨_, _, _, ha⟩ | ⟨i, op, hd, hop, hdly, _, ha⟩ | ⟨i, op, hd, hop, _, _, ha⟩ |
    ⟨i, op, hd, hop, _, hlt, ha⟩ := advance_cases d s <;> rw [ha] at h <;> cases h
  · exact sequencerOk_of_busy_at (s := awaitTimer op s) hb hd hop (.inr hdly)
  · rfl
  · obtain ⟨hcfg, _, hbusy, hcmd, hupc, _⟩ := finishOp_frame op s
    refine sequencerOk_of_busy_at (hbusy.trans hb) (by rwa [hcmd]) (op := (uprog s.cfg i)[s.upc + 1]) ?_ (.inl rfl)
    rw [hcfg, hupc]
    exact List.getElem?_eq_getElem hlt

/-- A whole command leaves the block idle with no delay request outstanding. -/
theorem exec_idle_sequencerOk {i : Instr} {s t : State} (hb : s.busy = false) (h : exec i s = .next t) :
    t.sequencerOk = true := by
  rw [exec_idle hb] at h
  cases h
  rw [sequencerOk_of_idle rfl, complete_waiting, runOps_waiting _ rfl]
  rfl

/-- Settles O27: the cases are what one step can do. -/
theorem everyStepKeepsTheSequencerInOrder : Obligations.EveryStepKeepsTheSequencerInOrder := by
  intro s t hs h
  obtain ⟨p, _, hst⟩ | ⟨hb, _, p, hst⟩ | ⟨_, _, hst⟩ | ⟨_, w, _, i, p, hd, _, hst⟩ | ⟨_, w, _, p, _, _, hst⟩ |
    ⟨hb, w, i, p, _, _, hst⟩ := step_cases s <;> rw [hst] at h
  · -- a reset
    cases h; rfl
  · -- the running command goes on
    exact advance_sequencerOk (s := s.setPort p) hb h
  · -- an idle block waits
    cases h; exact hs
  · -- a presented word is accepted
    cases h; exact accept_sequencerOk hd _
  · -- an illegal word is dropped
    cases h; exact hs
  · -- a called word runs to its completion
    exact exec_idle_sequencerOk (s := s.setPort p) hb h

/-- Settles O28: a block at reset is idle and has asked for no delay. -/
theorem theResetStateHasTheSequencerInOrder : Obligations.TheResetStateHasTheSequencerInOrder :=
  sequencerOk_of_idle (s := State.reset) rfl

end Sys2Proof.Machine
end

section
/-! Acceptance, one micro-operation per step, and completion (spec/10_state.md R28), O15 and O17. -/

namespace Sys2Proof.Machine

/-- Settles O17: the step is `accept`, and its laws are what each register becomes. -/
theorem acceptanceOnlyLatchesTheWord : Obligations.AcceptanceOnlyLatchesTheWord := by
  intro s w i d rest hb hp hd
  refine ⟨(accept w s).setPort rest, step_present_legal hb hp hd, ?_⟩
  have hdone : ((accept w s).setPort rest).outputs.done = false := outputs_done_of_trace (accept_trace s w)
  exact ⟨rfl, rfl, rfl, rfl, rfl, rfl, rfl, rfl, rfl, rfl, rfl, rfl, hdone, rfl, rfl, rfl⟩

/-- The step of a busy block whose micro-operation can end in it: not a `Dly`, or the timer answers. -/
theorem step_busy_of_op_ends {s : State} {i : Instr} {op : MicroOp} (hb : s.busy = true)
    (hrst : s.port.head? ≠ some .rst) (hend : op.isDly = false ∨ s.timerAnswers = true) (hd : decode s.cmd = .ok i)
    (hop : (uprog s.cfg i)[s.upc]? = some op) :
    ∃ p, step s = .next (if s.upc + 1 = (uprog s.cfg i).length
      then complete (responseOf i) (finishOp op (s.setPort p)) else finishOp op (s.setPort p)) := by
  obtain ⟨p, hst⟩ := step_busy hb hrst
  have hcond : (op.isDly && !s.timerAnswers) = false := by obtain h | h := hend <;> simp [h]
  have hadv := advance_at (s := s.setPort p) s.timerAnswers hd hop
  simp only [hcond, Bool.false_eq_true, if_false] at hadv
  exact ⟨p, hst.trans hadv⟩

/-- A finished micro-operation has its effect on the registers, whatever is at the port. -/
theorem finishOp_setPort_registers (op : MicroOp) (s : State) (p : List PortInput) :
    (finishOp op (s.setPort p)).drvScl = (s.effect op).drvScl ∧
    (finishOp op (s.setPort p)).drvSda = (s.effect op).drvSda ∧
    (finishOp op (s.setPort p)).shreg = (s.effect op).shreg ∧
    (finishOp op (s.setPort p)).ackbit = (s.effect op).ackbit ∧
    (finishOp op (s.setPort p)).rsp = (s.effect op).rsp := by
  simp [effect_setPort]

/-- Settles O15. The two clauses of a busy block are the two branches of `step_busy_of_op_ends`. -/
theorem steppingOfTheBlock : Obligations.SteppingOfTheBlock := by
  refine ⟨fun s w i d rest hb hp hd => ?_, fun s w e d rest hb hp hd => ?_,
    fun s i op hb hrst hend hd hop hlt => ?_, fun s i op hb hrst hend hd hop hlast => ?_⟩
  · exact ⟨_, step_present_legal hb hp hd, rfl, rfl, rfl⟩
  · exact ⟨_, step_present_illegal hb hp hd, rfl, hb⟩
  · obtain ⟨p, hst⟩ := step_busy_of_op_ends hb hrst hend hd hop
    rw [if_neg hlt.ne] at hst
    obtain ⟨_, _, hbusy, _, hupc, _⟩ := finishOp_frame op (s.setPort p)
    exact ⟨_, hst, hupc, hbusy.trans hb, outputs_done_of_trace (finishOp_trace op _),
      finishOp_setPort_registers op s p⟩
  · obtain ⟨p, hst⟩ := step_busy_of_op_ends hb hrst hend hd hop
    rw [if_pos hlast] at hst
    obtain ⟨_, _, _, _, hupc, _⟩ := finishOp_frame op (s.setPort p)
    obtain ⟨hdone, hvalid⟩ := outputs_complete (finishOp_trace op (s.setPort p)) (responseOf i)
    obtain ⟨hscl, hsda, hshreg, hack, hrsp⟩ := finishOp_setPort_registers op s p
    exact ⟨_, hst, hupc, rfl, hdone, hvalid, hscl, hsda, hshreg, hack, rspAtCompletion_congr hrsp hack _⟩

end Sys2Proof.Machine
end

section
/-! What no step changes, and what changes `ILLEGAL` (spec/10_state.md R30, R32; spec/60_exceptions.md R203, R206),
O20, O21, O31. -/

namespace Sys2Proof.Machine

/-- The block is idle, and what the port presents or calls is a word the decoder refuses. -/
def State.givenIllegalWord (s : State) : Prop :=
  s.busy = false ∧ ∃ w e rest, ((∃ d, s.port = .present w d :: rest) ∨ s.port = .call w :: rest) ∧ decode w = .error e

theorem exec_idle_frame {i : Instr} {s t : State} (hb : s.busy = false) (h : exec i s = .next t) :
    t.cfg = s.cfg ∧ t.illegal = s.illegal := by
  obtain ⟨hcfg, hill, _⟩ := runOps_frame (uprog s.cfg i) (accept (encode i) s)
  rw [exec_idle hb] at h
  cases h
  exact ⟨hcfg, hill⟩

/-- What one step does to the configuration and to `ILLEGAL`: it writes the one never, and the other only in a reset
and in an idle block that is given an illegal word. -/
theorem step_cfg_illegal {s t : State} (h : step s = .next t) :
    t.cfg = s.cfg ∧ (t.illegal = s.illegal ∨ (s.port.head? = some .rst ∧ t.illegal = false) ∨
      (s.givenIllegalWord ∧ t.illegal = true)) := by
  obtain ⟨p, hp, hst⟩ | ⟨_, _, p, hst⟩ | ⟨_, _, hst⟩ | ⟨_, w, _, _, p, _, _, hst⟩ | ⟨hb, w, e, p, hd, hp, hst⟩ |
    ⟨hb, w, _, p, _, _, hst⟩ := step_cases s <;> rw [hst] at h
  · -- a reset
    cases h; exact ⟨rfl, .inr (.inl ⟨by rw [hp]; rfl, rfl⟩)⟩
  · -- the running command goes on
    obtain ⟨hcfg, hill, _⟩ := advance_frame h
    exact ⟨hcfg, .inl hill⟩
  · -- an idle block waits
    cases h; exact ⟨rfl, .inl rfl⟩
  · -- a presented word is accepted
    cases h; exact ⟨rfl, .inl rfl⟩
  · -- an illegal word
    cases h; exact ⟨rfl, .inr (.inr ⟨⟨hb, w, e, p, hp, hd⟩, rfl⟩)⟩
  · -- a called word runs to its completion
    obtain ⟨hcfg, hill⟩ := exec_idle_frame (s := s.setPort p) hb h
    exact ⟨hcfg, .inl hill⟩

/-- Settles O31. -/
theorem noStepWritesTheConfiguration : Obligations.NoStepWritesTheConfiguration :=
  fun _ _ h => (step_cfg_illegal h).1

/-- Settles O20: of the two writes of `ILLEGAL`, only the reset's clears it. -/
theorem illegalIsSticky : Obligations.IllegalIsSticky := by
  intro s t hs hrst h
  obtain ⟨_, heq | ⟨hp, _⟩ | ⟨_, hset⟩⟩ := step_cfg_illegal h
  · exact heq.trans hs
  · exact absurd hp hrst
  · exact hset

/-- Settles O21: of the two writes of `ILLEGAL`, only the illegal word's sets it. -/
theorem onlyAnIllegalWordSetsTheFlag : Obligations.OnlyAnIllegalWordSetsTheFlag := by
  intro s t hs h ht
  obtain ⟨_, heq | ⟨_, hclear⟩ | ⟨hgiven, _⟩⟩ := step_cfg_illegal h
  · exact absurd (heq.symm.trans ht) (by simp [hs])
  · exact absurd (hclear.symm.trans ht) Bool.false_ne_true
  · exact hgiven

end Sys2Proof.Machine
end

section
/-! A presented command from its acceptance on, the timer answering every request in its step (spec/10_state.md R28,
R29), and the blocking call of the same word (log entry 3), O16, O32 and O33. -/

namespace Sys2Proof.Machine

theorem decode_of_decodeTableWord {n w : Nat} {i : Instr} (h : decodeTableWord n w = some i) :
    decode (BitVec.ofNat 20 w) = .ok i := by
  unfold decodeTableWord at h
  split at h
  · cases hw : decode (BitVec.ofNat 20 w) with
    | ok j =>
      rw [hw] at h
      exact congrArg Except.ok (Option.some.inj h)
    | error e =>
      rw [hw] at h
      cases h
  · cases h

/-- Settles O16. -/
theorem aStepRunsTheDecodedCommand : Obligations.AStepRunsTheDecodedCommand := by
  refine ⟨fun s w i rest hb hp hd => step_call_legal hb hp hd, fun s n w i hd => ?_⟩
  exact step_call_legal (s := s.withFetchWord n w) rfl rfl (decode_of_decodeTableWord hd)

/-- One step of a running command, no word presented and no request outstanding, the timer answering: the
micro-operation at `upc`, and the completion if it was the last. -/
theorem step_answered_at {s : State} {i : Instr} {op : MicroOp} (hb : s.busy = true) (hw : s.waiting = false)
    (hd : decode s.cmd = .ok i) (hop : (uprog s.cfg i)[s.upc]? = some op) (p : List PortInput) :
    step (s.setPort (.quiet true :: p)) = .next ((if s.upc + 1 = (uprog s.cfg i).length
      then complete (responseOf i) (runOp op s) else runOp op s).setPort p) := by
  rw [step_quiet_at hb hd hop p, finishOp_of_not_waiting op (s := s.setPort p) hw, runOp_setPort, complete_setPort]
  simp only [Bool.not_true, Bool.and_false, Bool.false_eq_true, if_false]
  split <;> rfl

/-- The state of a command `j` micro-operations after the acceptance of its word `w`. -/
def State.after (s : State) (w : CmdWord) (i : Instr) (j : Nat) : State :=
  runOps ((uprog s.cfg i).take j) (accept w s)

/-- Of `n + 1` steps with the same input, the last stands at the head of what follows the others. -/
theorem replicate_succ_append (n : Nat) (x : PortInput) (rest : List PortInput) :
    List.replicate (n + 1) x ++ rest = List.replicate n x ++ x :: rest := by
  rw [List.replicate_succ', List.append_assoc]
  rfl

section
variable {s : State} {w : CmdWord} {i : Instr} {j : Nat}

theorem after_frame (hj : j ≤ (uprog s.cfg i).length) :
    (s.after w i j).cfg = s.cfg ∧ (s.after w i j).busy = true ∧ (s.after w i j).cmd = w ∧ (s.after w i j).upc = j ∧
      (s.after w i j).waiting = false := by
  obtain ⟨hcfg, _, hbusy, hcmd, hupc, _⟩ := runOps_frame ((uprog s.cfg i).take j) (accept w s)
  refine ⟨hcfg, hbusy, hcmd, hupc.trans ?_, runOps_waiting _ rfl⟩
  rw [accept_upc, List.length_take, Nat.min_eq_left hj, Nat.zero_add]

theorem runOp_after (hj : j < (uprog s.cfg i).length) :
    runOp (uprog s.cfg i)[j] (s.after w i j) = s.after w i (j + 1) := by
  rw [State.after, State.after, List.take_add_one, List.getElem?_eq_getElem hj, runOps_append]
  rfl

/-- The step from a position of the command: to the next one, or with the completion if it was the last. -/
theorem step_after (hd : decode w = .ok i) (hj : j < (uprog s.cfg i).length) (p : List PortInput) :
    step ((s.after w i j).setPort (.quiet true :: p)) = .next ((if j + 1 = (uprog s.cfg i).length
      then complete (responseOf i) (s.after w i (j + 1)) else s.after w i (j + 1)).setPort p) := by
  obtain ⟨hcfg, hbusy, hcmd, hupc, hwait⟩ := after_frame (w := w) hj.le
  have hop : (uprog (s.after w i j).cfg i)[(s.after w i j).upc]? = some (uprog s.cfg i)[j] := by
    rw [hcfg, hupc, List.getElem?_eq_getElem hj]
  rw [step_answered_at hbusy hwait (by rwa [hcmd]) hop, hcfg, hupc, runOp_after hj]

/-- Acceptance and `j` further steps, short of the last: `j` micro-operations have been run. -/
theorem run_present_quiet (hb : s.busy = false) (hd : decode w = .ok i) (d : Bool)
    (hj : j < (uprog s.cfg i).length) (rest : List PortInput) :
    Host.Core.run core (j + 1) (s.setPort (.present w d :: (List.replicate j (.quiet true) ++ rest)))
      = .next ((s.after w i j).setPort rest) := by
  induction j generalizing rest with
  | zero => exact (run_succ_last (n := 0) rfl).trans (step_present_idle (s := s) hb hd rest)
  | succ j ih =>
    have hstep := step_after hd (by omega : j < (uprog s.cfg i).length) rest
    rw [if_neg (by omega)] at hstep
    rw [replicate_succ_append, run_succ_last (ih (by omega) _)]
    exact hstep

end

/-- Settles O33. -/
theorem busyUntilTheLastMicroOperation : Obligations.BusyUntilTheLastMicroOperation := by
  intro s w i j rest hb hd hj
  obtain ⟨_, hbusy, hcmd, hupc, _⟩ := after_frame (w := w) hj.le
  exact ⟨_, run_present_quiet hb hd true hj rest, hbusy, hcmd, hupc, rfl⟩

/-- Settles O32: all but the last step run all but the last micro-operation, and the last step completes as `exec`
does. -/
theorem aBlockingCallIsItsMicroSteps : Obligations.ABlockingCallIsItsMicroSteps := by
  intro s w i d rest hb hd
  obtain ⟨m, hm⟩ := Nat.exists_eq_succ_of_ne_zero (uprog_length_pos s.cfg i).ne'
  have hall : s.after w i (m + 1) = runOps (uprog s.cfg i) (accept w s) := by
    rw [State.after, List.take_of_length_le hm.le]
  have hlast : step ((s.after w i m).setPort (.quiet true :: rest))
      = .next ((complete (responseOf i) (s.after w i (m + 1))).setPort rest) := by
    rw [step_after hd (by omega), if_pos hm.symm]
  have hcall : step (s.setPort (.call w :: rest))
      = .next ((complete (responseOf i) (s.after w i (m + 1))).setPort rest) := by
    refine (step_call_legal (s := s.setPort (.call w :: rest)) hb rfl hd).trans ?_
    rw [setPort_setPort, exec_idle (s := s.setPort rest) hb, encode_of_decode hd, accept_setPort, setPort_cfg,
      runOps_setPort, complete_setPort, hall]
  rw [hcall, hm, replicate_succ_append, run_succ_last (run_present_quiet hb hd d (by omega) _)]
  exact hlast

end Sys2Proof.Machine
end

section
/-! The response of every command (spec/10_state.md R25; spec/30_encoding.md R83), O55. -/

namespace Sys2Proof.Machine

theorem responseOf_eq_none {i : Instr} (hl : ∀ l, i ≠ .lread l) (hx : ∀ v, i ≠ .xfer v) : responseOf i = .none := by
  cases i with
  | lread l => exact absurd rfl (hl l)
  | xfer v => exact absurd rfl (hx v)
  | _ => rfl

theorem LeavesBusIdle.rsp_eq {ops : List MicroOp} {k : Nat} (h : LeavesBusIdle ops k) (s : State) :
    (runOps ops s).rsp = s.rsp := by
  obtain ⟨_, _, _, _, hrsp⟩ := h s
  exact hrsp

/-- No command without a response writes `RSP` (R25). -/
theorem runOps_uprog_rsp {i : Instr} (hi : responseOf i = .none) (c : Config) (s : State) :
    (runOps (uprog c i) s).rsp = s.rsp := by
  cases i with
  | llow l => cases l <;> rfl
  | lrel l => cases l <;> rfl
  | lread l => cases hi
  | delay => rfl
  | start =>
    obtain ⟨_, _, _, _, hrsp⟩ := runOps_uStart c s
    exact hrsp
  | stop =>
    obtain ⟨_, _, _, _, hrsp⟩ := runOps_uStop c s
    exact hrsp
  | restart =>
    obtain ⟨_, _, _, _, hrsp⟩ := runOps_uStart c s
    exact hrsp
  | xfer v => cases hi
  | write addr p => exact (uWrite_leaves c addr p).rsp_eq s
  | sendb m v => exact (uSendb_leaves c m v).rsp_eq s
  | clear => exact (uClear_leaves c).rsp_eq s
  | setcur line column => exact (uSendb_leaves c _ _).rsp_eq s
  | init => exact (uInit_leaves c).rsp_eq s

/-- What the environment pulls after the acceptance of a word is what it pulled one step further ahead before. -/
theorem pullAfter_accept (w : CmdWord) (s : State) (k : Nat) : (accept w s).pullAfter k = s.pullAfter (1 + k) :=
  pullAfter_of_drop (by rw [accept_env, List.drop_one]) rfl k

/-- LREAD reads its line in the step after its acceptance (R114). -/
theorem runOps_uLread_rsp (l : Line) (w : CmdWord) (s : State) :
    (runOps (uprog s.cfg (.lread l)) (accept w s)).rsp = !(s.drv l == .low || (s.pullAfter 1).on l) := by
  have hdrv : (accept w s).drv l = s.drv l := by cases l <;> rfl
  have hpull : (accept w s).pull = s.pullAfter 1 := by rw [pull_eq_pullAfter_zero, pullAfter_accept]
  rw [uprog, uLread, runOps_cons, runOps_nil, runOp_rsp, State.effect, setSample_rsp_rsp, State.level, hdrv, hpull]
  rfl

/-- XFER samples its acknowledgment fifty-three steps after its acceptance (R138, R140). -/
theorem runOps_uXfer_ackbit (c : Config) (v : Byte) (w : CmdWord) (s : State) :
    (runOps (uprog c (.xfer v)) (accept w s)).ackbit = sampledAck s 53 := by
  obtain ⟨_, _, _, hack, _⟩ := runOps_uXfer c v (accept w s)
  rw [uprog, hack, pullAfter_accept, sampledAck]

/-- A command's record is not empty at its completion: its acceptance is in it. -/
theorem runOps_trace_cons (ops : List MicroOp) {s : State} {e : Entry} {es : List Entry} (h : s.trace = e :: es) :
    ∃ e' es', (runOps ops s).trace = e' :: es' := by
  obtain ⟨new, htr, _⟩ := runOps_trace ops s
  apply List.exists_cons_of_ne_nil
  rw [htr, h]
  exact List.append_ne_nil_of_right_ne_nil _ (List.cons_ne_nil e es)

theorem rspAtCompletion_ack (s : State) : rspAtCompletion .ack s = s.ackbit := rfl

/-- Settles O55. -/
theorem responsesComeFromLreadAndXferOnly : Obligations.ResponsesComeFromLreadAndXferOnly := by
  intro i s hb
  obtain ⟨e, es, htr⟩ := runOps_trace_cons (uprog s.cfg i) (accept_trace s (encode i))
  obtain ⟨hdone, hvalid⟩ := outputs_complete htr (responseOf i)
  refine ⟨_, exec_idle hb i, hdone, rfl, rfl, ?_, ?_, ?_⟩
  · rintro l rfl
    exact ⟨hvalid, runOps_uLread_rsp l _ s⟩
  · rintro v rfl
    exact ⟨hvalid, rspAtCompletion_ack _, (complete_ackbit _ _).trans (runOps_uXfer_ackbit s.cfg v _ s)⟩
  · intro hl hx
    have hnone := responseOf_eq_none hl hx
    rw [hnone] at hvalid ⊢
    exact ⟨hvalid, runOps_uprog_rsp hnone s.cfg _⟩

end Sys2Proof.Machine
end

section
/-! What the outside reads of a state (spec/10_state.md R22, R31, R40), and the steps that run nothing (R29, R40), O11,
O18, O24, O25, O56. -/

namespace Sys2Proof.Machine

theorem driveLow_iff {d : Drive} : driveLow d = true ↔ d = .low := beq_iff_eq

/-- Settles O11. -/
theorem padOutputsFollowTheDrivers : Obligations.PadOutputsFollowTheDrivers := by
  refine ⟨fun s => ⟨driveLow_iff, driveLow_iff⟩, fun d => ?_⟩
  cases d with
  | low => exact ⟨fun h => absurd (driveLow_iff.mpr rfl) (by simp [h]), rfl⟩
  | rel => exact ⟨fun _ => ⟨rfl, rfl⟩, rfl⟩

/-- Settles O18: what a busy block takes from the port is the timer's answer and no word. -/
theorem aWordPresentedWhileBusyIsNotLookedAt : Obligations.AWordPresentedWhileBusyIsNotLookedAt := by
  intro s w d rest hb
  refine ⟨?_, ?_, by simp [State.outputs, hb]⟩
  · rw [step_present_busy (s := s.setPort (.present w d :: rest)) hb rfl,
      step_quiet_busy (s := s.setPort (.quiet d :: rest)) hb rfl, setPort_setPort, setPort_setPort]
  · rw [step_call_busy (s := s.setPort (.call w :: rest)) hb rfl,
      step_quiet_busy (s := s.setPort (.quiet true :: .call w :: rest)) hb rfl, setPort_setPort]

/-- The default configuration is admissible, whatever the open clear delay (R6, R7). -/
theorem defaultWith_admissible (n : Nat) : (Config.defaultWith (n + 1)).admissible = true := by
  have hmasks : (Config.defaultWith (n + 1)).masksOk = true := rfl
  have hmodes : (Config.defaultWith (n + 1)).modesOk = true := rfl
  rw [Config.admissible, hmasks, hmodes]
  exact decide_eq_true (Nat.le_add_left 1 n)

/-- Settles O24: every clause but the last is one field of the state or of its configuration. -/
theorem resetState : Obligations.ResetState :=
  ⟨rfl, rfl, rfl, rfl, rfl, rfl, rfl, rfl, rfl, rfl, rfl, rfl, Nat.le_add_left 1 _, rfl, rfl, rfl, rfl, rfl, rfl, rfl,
    defaultWith_admissible _⟩

/-- Settles O25: the step is `idleStep`, and its laws are what each register becomes. -/
theorem anIdleBlockWaits : Obligations.AnIdleBlockWaits := by
  intro s hb hp
  exact ⟨_, step_idle_of_nothing_presented hb hp, ⟨rfl, rfl, rfl, rfl, rfl, rfl, rfl, rfl, rfl, rfl⟩, rfl,
    outputs_done_of_trace (idleStep_trace _), rfl⟩

theorem getLsbD_of_five_bits : ∀ b4 b3 b2 b1 b0 : Bool,
    let v := BitVec.ofBool b4 ++ BitVec.ofBool b3 ++ BitVec.ofBool b2 ++ BitVec.ofBool b1 ++ BitVec.ofBool b0
    v.getLsbD 0 = b0 ∧ v.getLsbD 1 = b1 ∧ v.getLsbD 2 = b2 ∧ v.getLsbD 3 = b3 ∧ v.getLsbD 4 = b4 := by
  decide

/-- Settles O56. -/
theorem statusVectorLayout : Obligations.StatusVectorLayout :=
  fun s => getLsbD_of_five_bits s.illegal s.ackbit (s.drvSda == .low) (s.drvScl == .low) s.busy

end Sys2Proof.Machine
end

section
/-! The driver states a whole command records (spec/10_state.md R28; log entry 7): entry `j` of its record shows the
drivers as `j` micro-operations leave them. -/

namespace Sys2Proof.Machine

/-- `(DRV[SCL], DRV[SDA])`, as `drivesOf` lists them. -/
def State.drives (s : State) : Drive × Drive := (s.drvScl, s.drvSda)

theorem drivesOf_cons (e : Entry) (es : List Entry) :
    drivesOf (e :: es) = (e.pads.scl, e.pads.sda) :: drivesOf es := rfl

theorem drivesOf_newest (s : State) (k : Nat) : drivesOf (s.newest k) = ((drivesOf s.trace).take k).reverse := by
  rw [State.newest, drivesOf, List.map_reverse, List.map_take, drivesOf]

theorem drivesOf_markCompletion (c : Completion) (es : List Entry) : drivesOf (markCompletion c es) = drivesOf es := by
  cases es <;> rfl

theorem drivesOf_runOp_trace (op : MicroOp) (s : State) :
    drivesOf (runOp op s).trace = (runOp op s).drives :: drivesOf s.trace := by
  rw [runOp_trace, drivesOf_cons]
  rfl

/-- From a state whose newest entry shows its drivers, a list of micro-operations adds one entry for each of its
prefixes. -/
theorem drivesOf_runOps_trace (ops : List MicroOp) {s : State} {before : List (Drive × Drive)}
    (h : drivesOf s.trace = s.drives :: before) :
    drivesOf (runOps ops s).trace
      = ((List.range (ops.length + 1)).map fun j => (runOps (ops.take j) s).drives).reverse ++ before := by
  induction ops generalizing s before with
  | nil => exact h
  | cons op ops ih =>
    have hop : drivesOf (runOp op s).trace = (runOp op s).drives :: s.drives :: before := by
      rw [drivesOf_runOp_trace, h]
    rw [runOps_cons, ih hop, List.length_cons, List.range_succ_eq_map (n := ops.length + 1)]
    simp [Function.comp_def]

/-- The driver states in the record of a whole command, acceptance first. -/
theorem drivesOf_newest_complete (r : Response) (s : State) (w : CmdWord) (i : Instr) :
    drivesOf ((complete r (runOps (uprog s.cfg i) (accept w s))).newest ((uprog s.cfg i).length + 1))
      = (List.range ((uprog s.cfg i).length + 1)).map fun j => (s.after w i j).drives := by
  rw [drivesOf_newest, complete_trace, drivesOf_markCompletion,
    drivesOf_runOps_trace (uprog s.cfg i) (s := accept w s) (before := drivesOf s.trace) rfl,
    List.take_left' (by simp), List.reverse_reverse]
  rfl

theorem drivesOf_newest_complete_getElem? (r : Response) (s : State) (w : CmdWord) {i : Instr} {j : Nat}
    (hj : j ≤ (uprog s.cfg i).length) :
    (drivesOf ((complete r (runOps (uprog s.cfg i) (accept w s))).newest ((uprog s.cfg i).length + 1)))[j]?
      = some (s.after w i j).drives := by
  rw [drivesOf_newest_complete, List.getElem?_map, List.getElem?_range (by omega)]
  rfl

/-- A position of a micro-program that lies `j` micro-operations into its part `b`. -/
theorem after_length_add {s : State} {i : Instr} {a b : List MicroOp} (h : uprog s.cfg i = a ++ b) (w : CmdWord)
    (j : Nat) : s.after w i (a.length + j) = runOps (b.take j) (runOps a (accept w s)) := by
  rw [State.after, h, List.take_length_add_append, runOps_append]

end Sys2Proof.Machine
end

section
/-! The order of the bits on the data line (spec/20_memory.md R57), O42: before the bit phase number `k` of a transfer
`SHREG` holds the byte shifted left `k` times, and the phase drives its top bit through the clock-high period. -/

namespace Sys2Proof.Machine

theorem rep_length (n : Nat) (l : List MicroOp) : (rep n l).length = n * l.length := by
  induction n with
  | zero => rw [Nat.zero_mul]; rfl
  | succ n ih => rw [rep, List.length_append, ih, Nat.succ_mul, Nat.add_comm]

theorem rep_add (m n : Nat) (l : List MicroOp) : rep (m + n) l = rep m l ++ rep n l := by
  induction m with
  | zero => rw [Nat.zero_add]; rfl
  | succ m ih => rw [Nat.succ_add, rep, ih, rep, List.append_assoc]

/-- The part of XFER before its bit phase number `k`; with `k = 8`, before its acknowledge phase (R138). -/
def uXferBefore (c : Config) (v : Byte) (k : Nat) : List MicroOp := .ld v :: rep k (uBit c)

theorem uXferBefore_length (c : Config) (v : Byte) (k : Nat) : (uXferBefore c v k).length = 6 * k + 1 := by
  rw [uXferBefore, List.length_cons, rep_length, Nat.mul_comm]
  rfl

theorem uprog_xfer_eq_before_append_uBit (c : Config) (v : Byte) {k : Nat} (hk : k < 8) :
    uprog c (.xfer v) = uXferBefore c v k ++ (uBit c ++ (rep (7 - k) (uBit c) ++ uAck c)) := by
  have hsplit : rep 8 (uBit c) = rep k (uBit c) ++ (uBit c ++ rep (7 - k) (uBit c)) := by
    have h := rep_add k (7 - k + 1) (uBit c)
    rwa [(by omega : k + (7 - k + 1) = 8)] at h
  rw [uprog, uXfer, uXferBefore, hsplit]
  simp only [List.cons_append, List.nil_append, List.append_assoc]

theorem uprog_xfer_eq_before_append_uAck (c : Config) (v : Byte) :
    uprog c (.xfer v) = uXferBefore c v 8 ++ uAck c := rfl

theorem runOps_uXferBefore_shreg (c : Config) (v : Byte) (k : Nat) (s : State) :
    (runOps (uXferBefore c v k) s).shreg = v <<< k := by
  obtain ⟨hshreg, _⟩ := runOps_rep_uBit c k (runOp (.ld v) s)
  exact hshreg

theorem getLsbD_shiftLeft_top (v : Byte) {k : Nat} (hk : k < 8) : (v <<< k).getLsbD 7 = v.getLsbD (7 - k) := by
  rw [BitVec.getLsbD_shiftLeft, decide_eq_false (by omega : ¬ 7 < k)]
  rfl

/-- In a bit phase the clock is released, and the data driver is the top bit of `SHREG`, in the step that releases the
clock and in the delay after it (R139). -/
theorem drives_runOps_take_uBit (c : Config) (rest : List MicroOp) (s : State) :
    (runOps ((uBit c ++ rest).take 2) s).drives = (.rel, bitstate (s.shreg.getLsbD 7)) ∧
    (runOps ((uBit c ++ rest).take 3) s).drives = (.rel, bitstate (s.shreg.getLsbD 7)) :=
  ⟨rfl, rfl⟩

/-- In the acknowledge phase both drivers are released from the release of the clock to the sample (R140). -/
theorem drives_runOps_take_uAck (c : Config) {j : Nat} (h2 : 2 ≤ j) (h4 : j ≤ 4) (s : State) :
    (runOps ((uAck c).take j) s).drives = (.rel, .rel) := by
  obtain rfl | rfl | rfl : j = 2 ∨ j = 3 ∨ j = 4 := by omega
  all_goals rfl

/-- The drivers in the clock-high period of bit `7 - k`. -/
theorem drives_after_uXfer_bit (s : State) (w : CmdWord) (v : Byte) {k : Nat} (hk : k < 8) :
    (s.after w (.xfer v) (3 + 6 * k)).drives = (.rel, bitstate (v.getLsbD (7 - k))) ∧
    (s.after w (.xfer v) (4 + 6 * k)).drives = (.rel, bitstate (v.getLsbD (7 - k))) := by
  have hat := after_length_add (uprog_xfer_eq_before_append_uBit s.cfg v hk) w
  have h3 : 3 + 6 * k = (uXferBefore s.cfg v k).length + 2 := by rw [uXferBefore_length]; omega
  have h4 : 4 + 6 * k = (uXferBefore s.cfg v k).length + 3 := by rw [uXferBefore_length]; omega
  rw [h3, h4, hat, hat, ← getLsbD_shiftLeft_top v hk, ← runOps_uXferBefore_shreg s.cfg v k (accept w s)]
  exact drives_runOps_take_uBit s.cfg _ _

/-- The drivers in the clock-high period of the acknowledgment. -/
theorem drives_after_uXfer_ack (s : State) (w : CmdWord) (v : Byte) {k : Nat} (h51 : 51 ≤ k) (h53 : k ≤ 53) :
    (s.after w (.xfer v) k).drives = (.rel, .rel) := by
  have hat := after_length_add (uprog_xfer_eq_before_append_uAck s.cfg v) w
  have hk : k = (uXferBefore s.cfg v 8).length + (k - 49) := by rw [uXferBefore_length]; omega
  rw [hk, hat]
  exact drives_runOps_take_uAck s.cfg (by omega) (by omega) _

/-- Settles O42. -/
theorem bitsGoOutMostSignificantFirst : Obligations.BitsGoOutMostSignificantFirst := by
  intro v s hb
  have hget {j : Nat} (hj : j ≤ 54) :=
    drivesOf_newest_complete_getElem? (i := .xfer v) (responseOf (.xfer v)) s (encode (.xfer v)) hj
  refine ⟨_, exec_idle hb (.xfer v), fun k hk => ?_, fun k h51 h53 => ?_⟩
  · obtain ⟨hrise, hdelay⟩ := drives_after_uXfer_bit s (encode (.xfer v)) v hk
    exact ⟨(hget (by omega)).trans (congrArg some hrise), (hget (by omega)).trans (congrArg some hdelay)⟩
  · exact (hget (by omega)).trans (congrArg some (drives_after_uXfer_ack s _ v h51 h53))

end Sys2Proof.Machine
end

section
/-! What the block reads of the lines (spec/20_memory.md R51), O54. -/

namespace Sys2Proof.Machine

/-- The only sample in the list is that of an acknowledgment slot: the data line, into `ACKBIT` (R140). -/
def SamplesOnlyAck (ops : List MicroOp) : Prop := ∀ l r, .smp l r ∈ ops → l = .sda ∧ r = .ackbit

theorem SamplesOnlyAck.append {a b : List MicroOp} (ha : SamplesOnlyAck a) (hb : SamplesOnlyAck b) :
    SamplesOnlyAck (a ++ b) :=
  fun l r h => (List.mem_append.mp h).elim (ha l r) (hb l r)

theorem SamplesOnlyAck.rep {a : List MicroOp} (ha : SamplesOnlyAck a) (n : Nat) : SamplesOnlyAck (rep n a) := by
  induction n with
  | zero => exact fun _ _ h => absurd h List.not_mem_nil
  | succ n ih => exact ha.append ih

/-- A list without a sample. -/
theorem samplesOnlyAck_of_isSmp_eq_false {ops : List MicroOp} (h : ∀ op ∈ ops, op.isSmp = false) :
    SamplesOnlyAck ops :=
  fun l r hmem => absurd (h (.smp l r) hmem) Bool.false_ne_true.symm

theorem uStart_samplesOnlyAck (c : Config) : SamplesOnlyAck (uStart c) :=
  samplesOnlyAck_of_isSmp_eq_false (by simp [uStart, busDelay, MicroOp.isSmp])

theorem uStop_samplesOnlyAck (c : Config) : SamplesOnlyAck (uStop c) := by
  apply samplesOnlyAck_of_isSmp_eq_false
  unfold uStop
  split <;> simp [uStopLiteral, busDelay, MicroOp.isSmp]

theorem uBit_samplesOnlyAck (c : Config) : SamplesOnlyAck (uBit c) :=
  samplesOnlyAck_of_isSmp_eq_false (by simp [uBit, busDelay, MicroOp.isSmp])

theorem uAck_samplesOnlyAck (c : Config) : SamplesOnlyAck (uAck c) := by
  simp [SamplesOnlyAck, uAck, busDelay]

theorem uXfer_samplesOnlyAck (c : Config) (v : Byte) : SamplesOnlyAck (uXfer c v) := by
  have hld : SamplesOnlyAck [.ld v] := samplesOnlyAck_of_isSmp_eq_false (by simp [MicroOp.isSmp])
  exact (hld.append ((uBit_samplesOnlyAck c).rep 8)).append (uAck_samplesOnlyAck c)

theorem uWrite_samplesOnlyAck (c : Config) (addr : BusAddr) (payload : Byte) :
    SamplesOnlyAck (uWrite c addr payload) :=
  (((uStart_samplesOnlyAck c).append (uXfer_samplesOnlyAck c _)).append (uXfer_samplesOnlyAck c _)).append
    (uStop_samplesOnlyAck c)

theorem SamplesOnlyAck.append_dly {a : List MicroOp} (ha : SamplesOnlyAck a) (u : TimeUnit) (n : Nat) :
    SamplesOnlyAck (a ++ [.dly u n]) :=
  ha.append (samplesOnlyAck_of_isSmp_eq_false (by simp [MicroOp.isSmp]))

theorem uNib_samplesOnlyAck (c : Config) (n : Byte) : SamplesOnlyAck (uNib c n) := by
  have hstrobe : ∀ m, SamplesOnlyAck (uStrobeWrite c m) := fun m => (uWrite_samplesOnlyAck c c.addr m).append_dly _ _
  exact ((hstrobe _).append (hstrobe _)).append (hstrobe _)

theorem uSendb_samplesOnlyAck (c : Config) (m : Mode) (v : Byte) : SamplesOnlyAck (uSendb c m v) :=
  (uNib_samplesOnlyAck c _).append (uNib_samplesOnlyAck c _)

theorem uClear_samplesOnlyAck (c : Config) : SamplesOnlyAck (uClear c) :=
  (uSendb_samplesOnlyAck c _ _).append_dly _ _

theorem uInit_samplesOnlyAck (c : Config) : SamplesOnlyAck (uInit c) := by
  have hsend := uSendb_samplesOnlyAck c c.modeCommand
  exact (((((((hsend _).append (hsend _)).append (hsend _)).append (hsend _)).append (hsend _)).append (hsend _)).append
    (hsend _)).append (uClear_samplesOnlyAck c)

/-- Every command but LREAD. -/
theorem uprog_samplesOnlyAck (c : Config) {i : Instr} (hi : ∀ l, i ≠ .lread l) : SamplesOnlyAck (uprog c i) := by
  cases i with
  | llow l => exact samplesOnlyAck_of_isSmp_eq_false (by simp [uprog, uLlow, MicroOp.isSmp])
  | lrel l => exact samplesOnlyAck_of_isSmp_eq_false (by simp [uprog, uLrel, MicroOp.isSmp])
  | lread l => exact absurd rfl (hi l)
  | delay => exact samplesOnlyAck_of_isSmp_eq_false (by simp [uprog, uDelay, busDelay, MicroOp.isSmp])
  | start => exact uStart_samplesOnlyAck c
  | stop => exact uStop_samplesOnlyAck c
  | restart => exact uStart_samplesOnlyAck c
  | xfer v => exact uXfer_samplesOnlyAck c v
  | write addr payload => exact uWrite_samplesOnlyAck c addr payload
  | sendb m v => exact uSendb_samplesOnlyAck c m v
  | clear => exact uClear_samplesOnlyAck c
  | setcur line column => exact uSendb_samplesOnlyAck c _ _
  | init => exact uInit_samplesOnlyAck c

/-- Settles O54: LREAD is one sample, of the line it names into `RSP`; no other command samples but for an
acknowledgment. -/
theorem onlyTheDataLineIsReadInsideACommand : Obligations.OnlyTheDataLineIsReadInsideACommand := by
  intro c i l r hmem
  by_cases hi : ∃ l', i = .lread l'
  · obtain ⟨l', rfl⟩ := hi
    obtain ⟨rfl, rfl⟩ : l = l' ∧ r = .rsp := by simpa [uprog, uLread] using hmem
    exact .inr ⟨rfl, rfl⟩
  · exact .inl (uprog_samplesOnlyAck c (not_exists.mp hi) l r hmem)

end Sys2Proof.Machine
end

section
/-! The positions of the display (spec/20_memory.md R55, R56; spec/70_reset_and_hazards.md R251), O8. -/

namespace Sys2Proof

theorem DispLine.number_lt_two (line : DispLine) : line.number < 2 := by cases line <;> decide

theorem DispLine.exists_number_eq {l : Nat} (hl : l < 2) : ∃ line : DispLine, line.number = l := by
  obtain rfl | rfl : l = 0 ∨ l = 1 := by omega
  · exact ⟨.line0, rfl⟩
  · exact ⟨.line1, rfl⟩

theorem Config.hasPosition_iff {c : Config} {line : DispLine} {column : BitVec 4} :
    c.hasPosition line column = true ↔ line.number < c.lines ∧ column.toNat < c.cols := by
  rw [Config.hasPosition, Bool.and_eq_true, decide_eq_true_iff, decide_eq_true_iff]

/-- Settles O8. -/
theorem everyCursorPositionIsOnTheDisplay : Obligations.EveryCursorPositionIsOnTheDisplay := by
  intro c hlines hcols
  refine ⟨fun line column => ?_, fun l k hl hk => ?_, ?_, fun column => ?_⟩
  · rw [Config.hasPosition_iff, hlines, hcols]
    exact ⟨line.number_lt_two, column.isLt⟩
  · rw [hlines] at hl
    rw [hcols] at hk
    obtain ⟨line, hline⟩ := DispLine.exists_number_eq hl
    exact ⟨line, BitVec.ofNatLT k hk, hline, BitVec.toNat_ofNatLT k hk⟩
  · rw [Config.positions, hlines, hcols]
  · rw [Config.charactersLeft, hcols]

end Sys2Proof
end

section
/-! The level of a line (spec/20_memory.md R50), O13. -/

namespace Sys2Proof.Machine

theorem level_eq_false_iff {s : State} {l : Line} : s.level l = false ↔ s.drv l = .low ∨ s.pull.on l = true := by
  rw [State.level, Bool.not_eq_false', Bool.or_eq_true, driveLow_iff]

/-- Settles O13. -/
theorem levelIsWiredAnd : Obligations.LevelIsWiredAnd :=
  fun _ => ⟨fun _ => level_eq_false_iff, rfl, rfl⟩

end Sys2Proof.Machine
end

section
/-! The round trip of the encoder (spec/30_encoding.md R80 to R82), O1 and O2: the fields a command is encoded in are
legal and stand for the command, and its word has exactly these fields. -/

namespace Sys2Proof

theorem fieldsOf_append (op : BitVec 4) (a b : Byte) : fieldsOf (op ++ a ++ b) = ⟨op, a, b⟩ := by
  have hop : (op ++ a ++ b).extractLsb' 16 4 = op := by
    rw [BitVec.extractLsb'_append_eq_of_le (by decide), BitVec.extractLsb'_append_eq_left]
  have ha : (op ++ a ++ b).extractLsb' 8 8 = a := by
    rw [BitVec.extractLsb'_append_eq_of_le (by decide), BitVec.extractLsb'_append_eq_right]
  have hb : (op ++ a ++ b).extractLsb' 0 8 = b := BitVec.extractLsb'_append_eq_right
  rw [fieldsOf, hop, ha, hb]

theorem fieldsOf_wordOf (f : Fields) : fieldsOf (wordOf f) = f := fieldsOf_append f.op f.a f.b

/-- The laws of Laws/PerInstr.lean, all thirteen as one. -/
theorem operandFields_illFormed (i : Instr) : (operandFields i).illFormed = none := by
  suffices h : Laws.LegalFields.Statement i from Option.isNone_iff_eq_none.mp h
  cases i with
  | llow l => exact Laws.LegalFields.llow l
  | lrel l => exact Laws.LegalFields.lrel l
  | lread l => exact Laws.LegalFields.lread l
  | delay => exact Laws.LegalFields.delay
  | start => exact Laws.LegalFields.start
  | stop => exact Laws.LegalFields.stop
  | restart => exact Laws.LegalFields.restart
  | xfer v => exact Laws.LegalFields.xfer v
  | write addr payload => exact Laws.LegalFields.write addr payload
  | sendb m v => exact Laws.LegalFields.sendb m v
  | clear => exact Laws.LegalFields.clear
  | setcur line column => exact Laws.LegalFields.setcur line column
  | init => exact Laws.LegalFields.init

/-! Each operand is read again from the field it is encoded in (R82). -/

@[simp] theorem getElem_byteOfBit (b : Bool) : (byteOfBit b)[0] = b := by cases b <;> rfl

@[simp] theorem lineOfBit_bitOfLine (l : Line) : lineOfBit (bitOfLine l) = l := by cases l <;> rfl

@[simp] theorem dispLineOfBit_bitOfDispLine (line : DispLine) : dispLineOfBit (bitOfDispLine line) = line := by
  cases line <;> rfl

theorem extractLsb'_zeroExtend {n m : Nat} (h : n ≤ m) (x : BitVec n) : (x.zeroExtend m).extractLsb' 0 n = x := by
  rw [BitVec.extractLsb'_setWidth_of_le (by rwa [Nat.zero_add]), BitVec.extractLsb'_eq_self]

theorem commandOf_operandFields (i : Instr) : commandOf (operandFields i) = some i := by
  cases i with
  | llow l | lrel l | lread l => simp [operandFields, commandOf]
  | write addr payload => simp [operandFields, commandOf, extractLsb'_zeroExtend]
  | sendb m v => simp [operandFields, commandOf]
  | setcur line column => simp [operandFields, commandOf, extractLsb'_zeroExtend]
  | delay | start | stop | restart | xfer v | clear | init => rfl

/-- Settles O1: the fields of the command's word are its operand fields, which are legal and stand for it. -/
theorem decodeOfEncodeIsTheCommand : Obligations.DecodeOfEncodeIsTheCommand := by
  intro i
  rw [decode_eq_ok_iff, encode, fieldsOf_wordOf]
  exact ⟨operandFields_illFormed i, commandOf_operandFields i⟩

/-- Settles O2. -/
theorem encodeOfDecodedWordIsTheWord : Obligations.EncodeOfDecodedWordIsTheWord :=
  fun _ _ => encode_of_decode

end Sys2Proof
end

section
/-! Which words are legal (spec/30_encoding.md R82, R99, R101), O3 and O4: those with well-formed fields. A row of the
table compares the opcode and the reserved bits of its command, all else it masks out. -/

namespace Sys2Proof

theorem exists_commandOf_eq_some {f : Fields} (hf : f.illFormed = none) : ∃ i, commandOf f = some i := by
  obtain ⟨ra, rb, hr, -⟩ := illFormed_eq_none_iff.mp hf
  obtain ⟨⟨⟨op, hop⟩⟩, a, b⟩ := f
  change op < 16 at hop
  interval_cases op <;> cases hr <;> exact ⟨_, rfl⟩

theorem exists_decode_eq_ok_iff {w : CmdWord} : (∃ i, decode w = .ok i) ↔ (fieldsOf w).illFormed = none := by
  simp only [decode_eq_ok_iff, exists_and_left]
  exact and_iff_left_of_imp exists_commandOf_eq_some

theorem exists_decode_eq_error_iff {w : CmdWord} : (∃ e, decode w = .error e) ↔ ¬ ∃ i, decode w = .ok i := by
  cases decode w <;> simp

theorem wordOf_inj {f g : Fields} : wordOf f = wordOf g ↔ f = g :=
  (Function.LeftInverse.injective fieldsOf_wordOf).eq_iff

theorem wordOf_and (f g : Fields) : wordOf f &&& wordOf g = wordOf ⟨f.op &&& g.op, f.a &&& g.a, f.b &&& g.b⟩ :=
  BitVec.and_append.trans (congrArg (· ++ (f.b &&& g.b)) BitVec.and_append)

/-- The two words of a row, field by field: the match is the opcode of its command, the mask is the opcode field and the
reserved bits of its command (R101). -/
theorem exists_tableRow_eq (i : Instr) : ∃ ra rb, reservedBits (operandFields i).op = some (ra, rb) ∧
    tableRow i = (wordOf ⟨(operandFields i).op, 0#8, 0#8⟩, wordOf ⟨BitVec.allOnes 4, ra, rb⟩) := by
  cases i <;> exact ⟨_, _, rfl, by simp only [operandFields, tableRow]; decide⟩

theorem tableRow_congr {i j : Instr} (h : (operandFields i).op = (operandFields j).op) : tableRow i = tableRow j := by
  obtain ⟨ra, rb, hr, hi⟩ := exists_tableRow_eq i
  obtain ⟨ra', rb', hr', hj⟩ := exists_tableRow_eq j
  rw [h, hr'] at hr
  cases hr
  rw [hi, hj, h]

/-- A word matches the row of a command exactly when it has its opcode and is legal. -/
theorem matchesRow_iff {w : CmdWord} {i : Instr} :
    matchesRow w i = true ↔ (fieldsOf w).op = (operandFields i).op ∧ (fieldsOf w).illFormed = none := by
  obtain ⟨ra, rb, hr, hi⟩ := exists_tableRow_eq i
  have hrow : matchesRow w i = true ↔ (fieldsOf w).op = (operandFields i).op ∧
      (fieldsOf w).a &&& ra = 0#8 ∧ (fieldsOf w).b &&& rb = 0#8 := by
    rw [matchesRow, hi, beq_iff_eq, ← wordOf_fieldsOf w, wordOf_and, wordOf_inj, Fields.mk.injEq, BitVec.and_allOnes,
      fieldsOf_wordOf]
  rw [hrow, illFormed_eq_none_iff]
  refine and_congr_right fun hop => ?_
  simp [hop, hr]

theorem op_of_decode {w : CmdWord} {i : Instr} (h : decode w = .ok i) : (fieldsOf w).op = (operandFields i).op := by
  rw [← encode_of_decode h, encode, fieldsOf_wordOf]

theorem matchesRow_of_decode {w : CmdWord} {i : Instr} (h : decode w = .ok i) : matchesRow w i = true :=
  matchesRow_iff.mpr ⟨op_of_decode h, exists_decode_eq_ok_iff.mp ⟨i, h⟩⟩

/-- Settles O3: legal words with one opcode match one row, and they are the words that decode. -/
theorem tableRowsSelectTheirCommand : Obligations.TableRowsSelectTheirCommand := by
  refine ⟨fun _ _ => matchesRow_of_decode, fun w i hm => ?_, fun w hno => ?_⟩
  · obtain ⟨hop, hf⟩ := matchesRow_iff.mp hm
    obtain ⟨j, hj⟩ := exists_decode_eq_ok_iff.mpr hf
    exact ⟨j, hj, tableRow_congr ((op_of_decode hj).symm.trans hop)⟩
  · rw [exists_decode_eq_error_iff]
    rintro ⟨i, hi⟩
    exact Bool.false_ne_true ((hno i).symm.trans (matchesRow_of_decode hi))

/-! A mask of R82 on an operand field, as the spec's words for it. -/

theorem and_0xFF_eq_zero_iff : ∀ a : Byte, a &&& 0xFF#8 = 0#8 ↔ a = 0#8 := by decide

theorem and_0xFE_eq_zero_iff : ∀ a : Byte, a &&& 0xFE#8 = 0#8 ↔ a >>> 1 = 0#8 := by decide

theorem and_0xF0_eq_zero_iff : ∀ a : Byte, a &&& 0xF0#8 = 0#8 ↔ a >>> 4 = 0#8 := by decide

theorem and_0x80_eq_zero_iff : ∀ a : Byte, a &&& 0x80#8 = 0#8 ↔ ¬ a.getLsbD 7 = true := by decide

/-- R99 of the three fields: no reserved bits are listed for the opcode, or one that is listed is 1. -/
theorem exists_decode_append_eq_error_iff {op : BitVec 4} {a b : Byte} :
    (∃ e, decode (op ++ a ++ b) = .error e) ↔
      ∀ ra rb, reservedBits op = some (ra, rb) → ¬ a &&& ra = 0#8 ∨ ¬ b &&& rb = 0#8 := by
  rw [exists_decode_eq_error_iff, exists_decode_eq_ok_iff, fieldsOf_append, illFormed_eq_none_iff]
  simp only [not_exists, not_and_or, imp_iff_not_or]

/-- Settles O4: the cases are the sixteen opcodes, in order. -/
theorem illegalWordsAreTheReservedOnes : Obligations.IllegalWordsAreTheReservedOnes := by
  intro op a b
  rw [exists_decode_append_eq_error_iff]
  obtain ⟨⟨op, hop⟩⟩ := op
  change op < 16 at hop
  interval_cases op <;>
    simp [reservedBits, and_0xFF_eq_zero_iff, and_0xFE_eq_zero_iff, and_0xF0_eq_zero_iff, and_0x80_eq_zero_iff]

end Sys2Proof
end

section
/-! The enable bit of a nibble group (spec/30_encoding.md R93, spec/43_display_controller.md R171, R172), O10. -/

namespace Sys2Proof

theorem isLowNibbleBit_ne_zero {k : Byte} (hk : isLowNibbleBit k = true) : k ≠ 0#8 := by
  rintro rfl
  exact absurd hk (by decide)

theorem and_not_eq_self {x k : Byte} (h : x &&& k = 0#8) : x &&& ~~~k = x := by
  calc x &&& ~~~k = x &&& k ||| x &&& ~~~k := by rw [h, BitVec.zero_or]
    _ = x := by rw [← BitVec.and_or_distrib_left, BitVec.or_not_self, BitVec.and_allOnes]

theorem or_and_not (x k : Byte) : (x ||| k) &&& ~~~k = x &&& ~~~k := by
  rw [BitVec.and_or_distrib_right, BitVec.and_not_self]
  exact BitVec.or_zero

theorem or_and_of_and_eq_zero {x k : Byte} (h : x &&& k = 0#8) : (x ||| k) &&& k = k := by
  rw [BitVec.and_or_distrib_right, h, BitVec.and_self, BitVec.zero_or]

namespace Machine

/-- Settles O10: the enable bit of a nibble byte is clear, so setting it and clearing it again is the byte. -/
theorem onlyTheEnableBitMovesInANibbleGroup : Obligations.OnlyTheEnableBitMovesInANibbleGroup := by
  intro c m v n hc hn
  have h := Config.legalMasks_of_masksOk hc
  obtain ⟨x, rfl⟩ := eq_nibbleByte_of_high_or_low hn
  have hen := nibbleByte_and_bitEn h m x
  exact ⟨and_not_eq_self hen, (or_and_not _ _).trans (and_not_eq_self hen), or_and_of_and_eq_zero hen, hen,
    isLowNibbleBit_ne_zero h.en_bit⟩

end Machine

end Sys2Proof
end

section
/-! Words and bytes written out in the spec (spec/30_encoding.md R85, R95, R97, spec/95_test_vectors.md): O5, O6, O7. -/

namespace Sys2Proof

/-- Settles O5: every clause is about one word, and decoding it evaluates. -/
theorem specWordsDecode : Obligations.SpecWordsDecode := by
  unfold Obligations.SpecWordsDecode
  decide

namespace Machine

/-- The address byte is the address followed by direction bit 0 (R85). -/
theorem addressByte_eq_append : ∀ addr : BusAddr, addressByte addr = addr ++ 0#1 := by decide

/-- Settles O6: bit 0 is the bit that is appended. -/
theorem addressByteLayout : Obligations.AddressByteLayout := by
  refine ⟨fun addr => ?_, by decide⟩
  rw [addressByte_eq_append]
  exact ⟨BitVec.extractLsb'_append_eq_left, by rw [BitVec.getLsbD_append]; rfl⟩

/-- A column has no bit outside the low nibble, so no carry leaves a base that has none inside it (R95). -/
theorem add_column_eq_or {base : Byte} (h : base &&& 0x0F#8 = 0#8) (column : BitVec 4) :
    base + column.zeroExtend 8 = base ||| column.zeroExtend 8 := by
  have hcol : 0x0F#8 &&& column.zeroExtend 8 = column.zeroExtend 8 := by revert column; decide
  apply BitVec.add_eq_or_of_and_eq_zero
  rw [← hcol, ← BitVec.and_assoc, h, BitVec.zero_and]

/-- Settles O7: neither base has a bit in the low nibble. -/
theorem cursorByteOfEveryPosition : Obligations.CursorByteOfEveryPosition := by
  intro c h0 h1 column
  simp only [cursorByte, h0, h1, true_and]
  exact ⟨add_column_eq_or (by decide) column, add_column_eq_or (by decide) column⟩

end Machine

end Sys2Proof
end

section
/-! The GPIO capabilities behind the pads (spec/40_line_helpers.md R116, spec/70_reset_and_hazards.md R231), O12. No
call writes a high output level, so a pad whose output level is low keeps it, and such a pad drives no line high. -/

namespace Sys2Proof.Machine

/-- The direction of a pad that stands for a driver (R22, R116). -/
def dirOf : Drive → PadDir
  | .low => .output
  | .rel => .input

theorem padOf_eq (d : Drive) : padOf d = ⟨dirOf d, false, true⟩ := by cases d <;> rfl

theorem setCalls_eq (l : Line) (d : Drive) : setCalls l d = [.setDirection l (dirOf d)] := by cases d <;> rfl

/-- The pads of the drivers (log entry 12). -/
def State.gpioPads (s : State) : GpioPads := ⟨padOf s.drvScl, padOf s.drvSda⟩

theorem applyCalls_setCalls (l : Line) (d : Drive) (s : State) :
    applyCalls (setCalls l d) s.gpioPads = (s.setDrv l d).gpioPads := by
  cases l <;> simp only [setCalls_eq, State.gpioPads, padOf_eq] <;> rfl

theorem applyCalls_opCalls (op : MicroOp) (s : State) :
    applyCalls (opCalls s.shreg op) s.gpioPads = (s.effect op).gpioPads := by
  cases op with
  | set l d => exact applyCalls_setCalls l d s
  | setTop => exact applyCalls_setCalls .sda _ s
  | dly u n => rfl
  | smp l r => cases r <;> rfl
  | ld v => rfl
  | shl => rfl

/-- Both output levels are low, whatever the directions. -/
def GpioPads.OutputsLow (p : GpioPads) : Prop := p.scl.outHigh = false ∧ p.sda.outHigh = false

theorem gpioPads_outputsLow (s : State) : s.gpioPads.OutputsLow := by
  simp [State.gpioPads, padOf_eq, GpioPads.OutputsLow]

theorem GpioPads.OutputsLow.drivesHigh_eq_false {p : GpioPads} (h : p.OutputsLow) :
    p.scl.drivesHigh = false ∧ p.sda.drivesHigh = false := by
  obtain ⟨hscl, hsda⟩ := h
  simp [GpioPad.drivesHigh, hscl, hsda]

theorem GpioPads.OutputsLow.apply {p : GpioPads} (h : p.OutputsLow) {c : GpioCall}
    (hc : ∀ l, .writeLevel l true ≠ c) : (c.apply p).OutputsLow := by
  obtain ⟨hscl, hsda⟩ := h
  cases c with
  | setDirection l d => cases l <;> exact ⟨hscl, hsda⟩
  | writeLevel l b =>
    cases b with
    | false =>
      cases l with
      | scl => exact ⟨rfl, hsda⟩
      | sda => exact ⟨hscl, rfl⟩
    | true => exact absurd rfl (hc l)
  | readLevel l => exact ⟨hscl, hsda⟩
  | enablePullUp l => cases l <;> exact ⟨hscl, hsda⟩

theorem GpioPads.OutputsLow.applyCalls {p : GpioPads} (h : p.OutputsLow) {calls : List GpioCall}
    (hc : ∀ l, .writeLevel l true ∉ calls) : (applyCalls calls p).OutputsLow := by
  induction calls generalizing p with
  | nil => exact h
  | cons c calls ih =>
    obtain ⟨hhead, htail⟩ := forall_and.mp fun l => List.ne_and_not_mem_of_not_mem_cons (hc l)
    exact ih (h.apply hhead) htail

/-- The calls of a micro-operation write no output level at all (R116). -/
theorem writeLevel_notMem_opCalls (shreg : Byte) (op : MicroOp) (l : Line) (b : Bool) :
    .writeLevel l b ∉ opCalls shreg op := by
  cases op <;> simp [opCalls, setCalls_eq]

theorem writeLevel_true_notMem_resetCalls (l : Line) : .writeLevel l true ∉ resetCalls := by
  cases l <;> decide

/-- A list of calls with no high level in it drives no line high on the way: no part it begins with has one either. -/
theorem drivesHigh_take_eq_false {p : GpioPads} (h : p.OutputsLow) {calls : List GpioCall}
    (hc : ∀ l, .writeLevel l true ∉ calls) (k : Nat) :
    (applyCalls (calls.take k) p).scl.drivesHigh = false ∧ (applyCalls (calls.take k) p).sda.drivesHigh = false :=
  (h.applyCalls fun l hl => hc l (List.mem_of_mem_take hl)).drivesHigh_eq_false

/-- Settles O12: a `Set` gives its pad the direction of the driver, and no call writes a high level. -/
theorem capabilityCallsRealiseTheDrivers : Obligations.CapabilityCallsRealiseTheDrivers := by
  refine ⟨fun s op => applyCalls_opCalls op s, fun s op k => ?_, fun scl sda k => ?_, fun p => rfl⟩
  · exact drivesHigh_take_eq_false (gpioPads_outputsLow s) (writeLevel_notMem_opCalls s.shreg op · true) k
  · have hlow : GpioPads.OutputsLow ⟨padOf scl, padOf sda⟩ := by simp [GpioPads.OutputsLow, padOf_eq]
    exact drivesHigh_take_eq_false hlow writeLevel_true_notMem_resetCalls k

end Sys2Proof.Machine
end

section
/-! A `Dly` from its request to the timer's answer (spec/40_line_helpers.md R111, spec/60_exceptions.md R212, R216),
O30. -/

namespace Sys2Proof.Machine

theorem dly_request (u : TimeUnit) (n : Nat) :
    (MicroOp.dly u n).request = some ⟨decide (u = .ms), BitVec.ofNat 16 n⟩ := by cases u <;> rfl

/-- What each step of the record asked of the timer, newest first. -/
def State.requests (s : State) : List (Option DelayRequest) := s.trace.map Entry.request

theorem requests_newest (s : State) (k : Nat) : (s.newest k).map Entry.request = (s.requests.take k).reverse := by
  rw [State.newest, State.requests, List.map_reverse, List.map_take]

/-- A step at a micro-operation without the answer asks the timer if no earlier step has. -/
theorem awaitTimer_requests (op : MicroOp) (s : State) :
    (awaitTimer op s).requests = (if s.waiting then none else op.request) :: s.requests := by
  rw [State.requests, awaitTimer_trace]
  cases s.waiting <;> rfl

/-- The step of the answer to a `Dly` asks the timer if no earlier step has. -/
theorem finishOp_dly_requests (u : TimeUnit) (n : Nat) (s : State) :
    (finishOp (.dly u n) s).requests = (if s.waiting then none else (MicroOp.dly u n).request) :: s.requests := by
  rw [State.requests, finishOp_trace]
  cases s.waiting <;> rfl

theorem awaitTimer_sameRegisters (op : MicroOp) (s : State) : SameRegisters s (awaitTimer op s) :=
  ⟨rfl, rfl, rfl, rfl, rfl, rfl, rfl, rfl, rfl, rfl⟩

theorem outputs_dlyReq_of_requests {s : State} {r : Option DelayRequest} {rs : List (Option DelayRequest)}
    (h : s.requests = r :: rs) : s.outputs.dlyReq = r := by
  have hhead := congrArg List.head? h
  rw [State.requests, List.head?_map] at hhead
  simp [State.outputs, hhead]

section
variable {s : State} {i : Instr} {u : TimeUnit} {n : Nat}

/-- A step at a `Dly` without the answer waits, whether a word is presented or not. -/
theorem step_dly_unanswered {rest : List PortInput} (hb : s.busy = true)
    (hp : s.port = .quiet false :: rest ∨ ∃ w, s.port = .present w false :: rest) (hd : decode s.cmd = .ok i)
    (hop : (uprog s.cfg i)[s.upc]? = some (.dly u n)) :
    step s = .next (awaitTimer (.dly u n) (s.setPort rest)) := by
  have hadv : advance false (s.setPort rest) = .next (awaitTimer (.dly u n) (s.setPort rest)) :=
    advance_at (s := s.setPort rest) false hd hop
  obtain hp | ⟨w, hp⟩ := hp
  · exact (step_quiet_busy hb hp).trans hadv
  · exact (step_present_busy hb hp).trans hadv

/-- A `Dly` answered after `k` steps without the answer: the sequencer moves on by one, and all but the first of the
`k + 1` steps ask nothing. -/
theorem run_dly_answered (k : Nat) (rest : List PortInput) (hb : s.busy = true) (hd : decode s.cmd = .ok i)
    (hop : (uprog s.cfg i)[s.upc]? = some (.dly u n)) (hlt : s.upc + 1 < (uprog s.cfg i).length) :
    Answers (Host.Core.run core (k + 1) (s.setPort (List.replicate k (.quiet false) ++ .quiet true :: rest))) fun t =>
      SameRegisters { s with upc := s.upc + 1 } t ∧ t.waiting = false ∧ t.port = rest ∧ t.now = s.now + (k + 1) ∧
      t.requests = List.replicate k none ++ (if s.waiting then none else (MicroOp.dly u n).request) :: s.requests := by
  induction k generalizing s with
  | zero =>
    have hstep := step_quiet_at (d := true) hb hd hop rest
    rw [if_neg (by simp), if_neg hlt.ne] at hstep
    refine ⟨finishOp (.dly u n) (s.setPort rest), (run_succ_last (n := 0) rfl).trans hstep, ?_, rfl, rfl, rfl, ?_⟩
    · exact ⟨rfl, rfl, rfl, rfl, rfl, rfl, rfl, rfl, rfl, rfl⟩
    · exact finishOp_dly_requests u n (s.setPort rest)
  | succ k ih =>
    have hstep := step_dly_unanswered (s := s.setPort (List.replicate (k + 1) (.quiet false) ++ .quiet true :: rest))
      hb (.inl rfl) hd hop
    obtain ⟨t, hrun, hreg, hwait, hport, hnow, hreq⟩ := ih (s := awaitTimer (.dly u n) s) hb hd hop hlt
    refine ⟨t, ?_, hreg, hwait, hport, ?_, ?_⟩
    · rw [run_succ, hstep]
      exact hrun
    · rw [hnow, awaitTimer_now]
      omega
    · rw [hreq, awaitTimer_requests, awaitTimer_waiting, List.replicate_succ', List.append_assoc]
      rfl

end

/-- Settles O30. -/
theorem aDelayEndsWithTheTimersAnswer : Obligations.ADelayEndsWithTheTimersAnswer := by
  refine ⟨fun s i u n rest hb hp hd hop => ?_, fun s i u n k rest hb hw hd hop hlt => ?_⟩
  · have hreq := awaitTimer_requests (.dly u n) (s.setPort rest)
    rw [dly_request] at hreq
    refine ⟨_, step_dly_unanswered hb hp hd hop, awaitTimer_sameRegisters (.dly u n) (s.setPort rest), rfl, rfl,
      outputs_done_of_trace (awaitTimer_trace (s.setPort rest) (.dly u n)), outputs_dlyReq_of_requests hreq,
      rfl, rfl, rfl⟩
  · obtain ⟨t, hrun, hreg, hwait, hport, hnow, hreq⟩ := run_dly_answered k rest hb hd hop hlt
    refine ⟨t, hrun, hreg, hwait, hport, hnow, ?_⟩
    rw [requests_newest, hreq, hw, dly_request]
    simp [List.take_append]

end Sys2Proof.Machine
end

section
/-! What each micro-operation does to the registers (spec/40_line_helpers.md R110), O14. -/

namespace Sys2Proof.Machine

theorem setDrv_drv_self (l : Line) (d : Drive) (s : State) : (s.setDrv l d).drv l = d := by cases l <;> rfl

theorem setDrv_drv_of_ne {l l' : Line} (h : l' ≠ l) (d : Drive) (s : State) : (s.setDrv l d).drv l' = s.drv l' := by
  cases l <;> cases l'
  · exact absurd rfl h
  · rfl
  · rfl
  · exact absurd rfl h

/-- Driving a line writes neither the accumulator nor a sampled register. -/
theorem setDrv_frame (l : Line) (d : Drive) (s : State) :
    (s.setDrv l d).shreg = s.shreg ∧ (s.setDrv l d).ackbit = s.ackbit ∧ (s.setDrv l d).rsp = s.rsp := by
  cases l <;> exact ⟨rfl, rfl, rfl⟩

theorem effect_drivers_of_not_isSet {op : MicroOp} (h : op.isSet = false) (s : State) :
    (s.effect op).drvScl = s.drvScl ∧ (s.effect op).drvSda = s.drvSda := by
  cases op with
  | set l d => cases h
  | setTop => cases h
  | dly u n => exact ⟨rfl, rfl⟩
  | smp l r => cases r <;> exact ⟨rfl, rfl⟩
  | ld v => exact ⟨rfl, rfl⟩
  | shl => exact ⟨rfl, rfl⟩

/-- Settles O14. -/
theorem microOperationEffects : Obligations.MicroOperationEffects := by
  intro s
  refine ⟨fun l d => ?_, ?_, fun op hset htop => ?_, fun u n => ⟨rfl, rfl, rfl⟩, fun l => ?_,
    fun v => ⟨rfl, rfl, rfl⟩, rfl, rfl, rfl⟩
  · exact ⟨setDrv_drv_self l d s, fun l' h => setDrv_drv_of_ne h d s, setDrv_frame l d s⟩
  · exact ⟨rfl, rfl, rfl, rfl, rfl⟩
  · have hop : op.isSet = false := by
      cases op with
      | set l d => exact absurd rfl (hset l d)
      | setTop => exact absurd rfl htop
      | _ => rfl
    exact effect_drivers_of_not_isSet hop s
  · exact ⟨rfl, rfl, rfl, rfl, fun r => by cases r <;> rfl⟩

end Sys2Proof.Machine
end

section
/-! The line helpers as whole commands (spec/40_line_helpers.md R112 to R115), O34 to O37. Each is one micro-operation,
so `completes_of_runOps` says all of it but what that one leaves in the registers. -/

namespace Sys2Proof.Machine

/-- A command that is one `Set` completes with its line driven so and every other register unchanged. -/
theorem completes_of_uprog_eq_set {s : State} (hb : s.busy = false) {i : Instr} {l : Line} {d : Drive}
    (hi : uprog s.cfg i = [.set l d]) (hr : responseOf i = .none) :
    Completes i s (if l = .scl then d else s.drvScl) (if l = .sda then d else s.drvSda)
      s.shreg s.ackbit s.rsp .done := by
  have h := completes_of_runOps hb i
  rw [hi, hr] at h
  cases l <;> exact h

/-- Settles O34. -/
theorem llowDrivesItsLineLow : Obligations.LlowDrivesItsLineLow :=
  ⟨decodeOfEncodeIsTheCommand (.llow .scl), decodeOfEncodeIsTheCommand (.llow .sda),
    fun _ _ hb => ⟨rfl, completes_of_uprog_eq_set hb rfl rfl⟩⟩

/-- A released line is high exactly when no other device pulls it (R50, R113). -/
theorem level_eq_true_iff_of_rel {s : State} {l : Line} (h : s.drv l = .rel) :
    s.level l = true ↔ s.pull.on l = false := by
  rw [← Bool.not_eq_false, level_eq_false_iff, h]
  simp

/-- Settles O35. -/
theorem lrelReleasesItsLine : Obligations.LrelReleasesItsLine :=
  ⟨decodeOfEncodeIsTheCommand (.lrel .scl), decodeOfEncodeIsTheCommand (.lrel .sda),
    fun _ _ hb => ⟨rfl, completes_of_uprog_eq_set hb rfl rfl⟩, fun _ _ => level_eq_true_iff_of_rel⟩

/-- Settles O36. -/
theorem lreadAnswersTheLevel : Obligations.LreadAnswersTheLevel := by
  refine ⟨decodeOfEncodeIsTheCommand (.lread .scl), decodeOfEncodeIsTheCommand (.lread .sda),
    fun l s hb => ⟨rfl, ?_⟩⟩
  rw [← runOps_uLread_rsp l (encode (.lread l)) s]
  exact completes_of_runOps hb (.lread l)

/-- Settles O37. -/
theorem delayAsksForOneBusDelay : Obligations.DelayAsksForOneBusDelay :=
  ⟨decodeOfEncodeIsTheCommand .delay, fun _ hb => ⟨rfl, rfl, completes_of_runOps hb .delay⟩⟩

end Sys2Proof.Machine
end

section
/-! The record of a whole command (spec/10_state.md R28; log entry 7): its acceptance, then one entry for each
micro-operation, as a list that follows the micro-program; the drivers, pads and events in it are maps of that list. -/

namespace Sys2Proof.Machine

/-- The entries a list of micro-operations records, in time order. -/
def entriesAlong : List MicroOp → State → List Entry
  | [], _ => []
  | op :: ops, s => ⟨.micro op, (s.effect op).pads, .none⟩ :: entriesAlong ops (runOp op s)

@[simp] theorem entriesAlong_length (ops : List MicroOp) (s : State) : (entriesAlong ops s).length = ops.length := by
  induction ops generalizing s with
  | nil => rfl
  | cons op ops ih => exact congrArg (· + 1) (ih _)

theorem entriesAlong_append (a b : List MicroOp) (s : State) :
    entriesAlong (a ++ b) s = entriesAlong a s ++ entriesAlong b (runOps a s) := by
  induction a generalizing s with
  | nil => rfl
  | cons op ops ih => exact congrArg (_ :: ·) (ih _)

theorem runOps_trace_eq (ops : List MicroOp) (s : State) :
    (runOps ops s).trace = (entriesAlong ops s).reverse ++ s.trace := by
  induction ops generalizing s with
  | nil => rfl
  | cons op ops ih =>
    rw [runOps_cons, ih, runOp_trace, entriesAlong, List.reverse_cons, List.append_assoc]
    rfl

/-- What a whole command's record shows, whatever is read off its entries but the completions. -/
theorem map_newest_complete {α : Type} {f : Entry → α} (hf : ∀ e c, f { e with completion := c } = f e)
    (r : Response) (ops : List MicroOp) (s : State) (w : CmdWord) :
    ((complete r (runOps ops (accept w s))).newest (ops.length + 1)).map f
      = f ⟨.accepted w, s.pads, .none⟩ :: (entriesAlong ops (accept w s)).map f := by
  have hmark (c : Completion) (es : List Entry) : (markCompletion c es).map f = es.map f := by
    cases es with
    | nil => rfl
    | cons e es => exact congrArg (· :: _) (hf e c)
  rw [State.newest, List.map_reverse, List.map_take, complete_trace, hmark, runOps_trace_eq, accept_trace,
    List.append_cons, List.map_append, List.take_left' (by simp)]
  simp

/-- The driver states after each micro-operation of a list. -/
def drivesAlong (ops : List MicroOp) (s : State) : List (Drive × Drive) := drivesOf (entriesAlong ops s)

@[simp] theorem drivesAlong_nil (s : State) : drivesAlong [] s = [] := rfl

@[simp] theorem drivesAlong_cons (op : MicroOp) (ops : List MicroOp) (s : State) :
    drivesAlong (op :: ops) s = (runOp op s).drives :: drivesAlong ops (runOp op s) := rfl

theorem drivesAlong_append (a b : List MicroOp) (s : State) :
    drivesAlong (a ++ b) s = drivesAlong a s ++ drivesAlong b (runOps a s) := by
  rw [drivesAlong, entriesAlong_append, drivesOf, List.map_append]
  rfl

theorem drivesOf_newest_runOps (r : Response) (ops : List MicroOp) (s : State) (w : CmdWord) :
    drivesOf ((complete r (runOps ops (accept w s))).newest (ops.length + 1))
      = s.drives :: drivesAlong ops (accept w s) :=
  map_newest_complete (fun _ _ => rfl) r ops s w

theorem padsOf_newest_runOps (r : Response) (ops : List MicroOp) (s : State) (w : CmdWord) :
    padsOf ((complete r (runOps ops (accept w s))).newest (ops.length + 1))
      = s.pads :: padsOf (entriesAlong ops (accept w s)) :=
  map_newest_complete (fun _ _ => rfl) r ops s w

theorem eventsOf_entriesAlong (ops : List MicroOp) (s : State) : eventsOf (entriesAlong ops s) = microEvents ops := by
  induction ops generalizing s with
  | nil => rfl
  | cons op ops ih => exact congrArg (_ :: ·) (ih _)

theorem eventsOf_newest_runOps (r : Response) (ops : List MicroOp) (s : State) (w : CmdWord) :
    eventsOf ((complete r (runOps ops (accept w s))).newest (ops.length + 1)) = .accepted w :: microEvents ops := by
  rw [← eventsOf_entriesAlong ops (accept w s)]
  exact map_newest_complete (fun _ _ => rfl) r ops s w

/-- A command presented to an idle block, by what its micro-program is. -/
theorem exec_idle_of_uprog_eq {s : State} (hb : s.busy = false) {i : Instr} {ops : List MicroOp}
    (hi : uprog s.cfg i = ops) :
    exec i s = .next (complete (responseOf i) (runOps ops (accept (encode i) s))) := by
  rw [exec_idle hb, hi]

theorem answers_drivesOf {s : State} (hb : s.busy = false) {i : Instr} {ops : List MicroOp}
    (hi : uprog s.cfg i = ops) : Answers (exec i s) fun t =>
      drivesOf (t.newest (ops.length + 1)) = s.drives :: drivesAlong ops (accept (encode i) s) :=
  ⟨_, exec_idle_of_uprog_eq hb hi, drivesOf_newest_runOps _ ops s _⟩

theorem Answers.imp {o : Result} {P Q : State → Prop} (h : ∀ t, P t → Q t) (hP : Answers o P) : Answers o Q :=
  Exists.imp (fun t ⟨ht, hPt⟩ => ⟨ht, h t hPt⟩) hP

/-- A command without a response completes with the registers as its micro-program leaves them. -/
theorem completes_of_registers {s : State} (hb : s.busy = false) {i : Instr} (hr : responseOf i = .none)
    {scl sda : Drive} {shreg : Byte} {ackbit rsp : Bool}
    (h : let t := runOps (uprog s.cfg i) (accept (encode i) s)
      t.drvScl = scl ∧ t.drvSda = sda ∧ t.shreg = shreg ∧ t.ackbit = ackbit ∧ t.rsp = rsp) :
    Completes i s scl sda shreg ackbit rsp .done := by
  obtain ⟨rfl, rfl, rfl, rfl, rfl⟩ := h
  have hc := completes_of_runOps hb i
  rw [hr] at hc
  exact hc

end Sys2Proof.Machine
end

section
/-! START, STOP and RESTART as whole commands (spec/41_bus_engine.md R131, R134, R135, R137), O38 to O40. -/

namespace Sys2Proof.Machine

theorem drivesAlong_uStart (c : Config) (s : State) :
    drivesAlong (uStart c) s
      = [(.rel, s.drvSda), (.rel, s.drvSda), (.rel, .low), (.rel, .low), (.low, .low), (.low, .low)] := rfl

/-- Settles O38. -/
theorem startLeavesBothLinesLow : Obligations.StartLeavesBothLinesLow :=
  ⟨decodeOfEncodeIsTheCommand .start, fun s hb =>
    ⟨rfl, completes_of_registers hb rfl (runOps_uStart s.cfg _),
      drivesAlong_uStart s.cfg (accept _ s) ▸ answers_drivesOf hb rfl⟩⟩

theorem uStop_eq_literal {c : Config} (h : c.stopSdaLowFirst = false) : uStop c = uStopLiteral c := by
  rw [uStop, h]
  rfl

theorem uStop_eq_lowFirst {c : Config} (h : c.stopSdaLowFirst = true) :
    uStop c = [.set .sda .low, busDelay c] ++ uStopLiteral c := by
  rw [uStop, h]
  rfl

theorem drivesAlong_uStopLiteral (c : Config) (s : State) :
    drivesAlong (uStopLiteral c) s = [(.rel, s.drvSda), (.rel, s.drvSda), (.rel, .rel), (.rel, .rel)] := rfl

theorem drivesAlong_lowFirst (c : Config) (s : State) :
    drivesAlong ([.set .sda .low, busDelay c] ++ uStopLiteral c) s
      = [(s.drvScl, .low), (s.drvScl, .low), (.rel, .low), (.rel, .low), (.rel, .rel), (.rel, .rel)] := rfl

/-- Settles O39: each variant is a list of its own. -/
theorem stopLeavesBothLinesReleased : Obligations.StopLeavesBothLinesReleased :=
  ⟨decodeOfEncodeIsTheCommand .stop, fun s hb =>
    ⟨completes_of_registers hb rfl (runOps_uStop s.cfg _),
      fun h => ⟨uStop_eq_literal h,
        drivesAlong_uStopLiteral s.cfg (accept _ s) ▸ answers_drivesOf (i := .stop) hb (uStop_eq_literal h)⟩,
      fun h => ⟨uStop_eq_lowFirst h,
        drivesAlong_lowFirst s.cfg (accept _ s) ▸ answers_drivesOf (i := .stop) hb (uStop_eq_lowFirst h)⟩⟩⟩

/-- Settles O40: RESTART runs the micro-program of START, and no pad depends on the word in `CMD`. -/
theorem restartBehavesAsStart : Obligations.RestartBehavesAsStart :=
  ⟨decodeOfEncodeIsTheCommand .restart, fun s hb =>
    ⟨completes_of_registers hb rfl (runOps_uStart s.cfg _), rfl, _, _, exec_idle hb .restart, exec_idle hb .start,
      (padsOf_newest_runOps .none (uStart s.cfg) s _).trans (padsOf_newest_runOps .none (uStart s.cfg) s _).symm, rfl,
      rfl⟩⟩

end Sys2Proof.Machine
end

section
/-! The wire conditions of START and STOP on a bus nothing else pulls (spec/20_memory.md R50, R52;
spec/41_bus_engine.md R133, R136), O58 and O59: the levels then are the drivers. -/

namespace Sys2Proof.Machine

/-- The pads of given drivers with no other device pulling: a line is high exactly when the block releases it (R50). -/
def unpulledPads (d : Drive × Drive) : Pads := ⟨d.1, d.2, !driveLow d.1, !driveLow d.2⟩

theorem pads_of_unpulled {s : State} (h : s.pull = ⟨false, false⟩) : s.pads = unpulledPads s.drives := by
  simp [State.pads, State.level, h, Pull.on, unpulledPads, State.drives, State.drv]

theorem effect_pull (op : MicroOp) (s : State) : (s.effect op).pull = s.pull := by
  obtain ⟨_, _, _, _, _, _, henv, hnow, _⟩ := effect_frame op s
  exact (pull_of_drop (k := 0) henv hnow).trans (pull_eq_pullAfter_zero s).symm

theorem runOp_pullAfter (op : MicroOp) (s : State) (k : Nat) : (runOp op s).pullAfter k = s.pullAfter (1 + k) := by
  obtain ⟨_, _, _, _, _, _, henv, hnow⟩ := runOp_frame op s
  exact pullAfter_of_drop (by rw [henv, List.drop_one]) hnow k

theorem padsOf_entriesAlong_of_unpulled {ops : List MicroOp} {s : State}
    (h : ∀ k < ops.length, s.pullAfter k = ⟨false, false⟩) :
    padsOf (entriesAlong ops s) = (drivesAlong ops s).map unpulledPads := by
  induction ops generalizing s with
  | nil => rfl
  | cons op ops ih =>
    have hfirst : (s.effect op).pads = unpulledPads (runOp op s).drives := pads_of_unpulled (by
      rw [effect_pull, pull_eq_pullAfter_zero]
      exact h 0 (Nat.zero_lt_succ _))
    have hrest := ih (s := runOp op s) fun k hk => by
      rw [runOp_pullAfter]
      exact h (1 + k) (by rw [List.length_cons]; omega)
    exact congrArg₂ List.cons hfirst hrest

/-- A whole command on a bus nothing else pulls: what its drivers alone put on the wire. -/
theorem answers_wireEvents_of_unpulled {s : State} (hb : s.busy = false) {i : Instr} {ops : List MicroOp}
    (hi : uprog s.cfg i = ops) (h : ∀ k ≤ ops.length, s.pullAfter k = ⟨false, false⟩) :
    Answers (exec i s) fun t => wireEvents s.pads (t.newest (ops.length + 1))
      = wireFrom (unpulledPads s.drives) none
          ((s.drives :: drivesAlong ops (accept (encode i) s)).map unpulledPads) := by
  have hfirst : s.pads = unpulledPads s.drives := pads_of_unpulled (by
    rw [pull_eq_pullAfter_zero]
    exact h 0 (Nat.zero_le _))
  have hrest := padsOf_entriesAlong_of_unpulled (ops := ops) (s := accept (encode i) s) fun k hk => by
    rw [pullAfter_accept]
    exact h (1 + k) (by omega)
  refine ⟨_, exec_idle_of_uprog_eq hb hi, ?_⟩
  simp only [wireEvents, padsOf_newest_runOps, hrest, hfirst, List.map_cons]

/-- Settles O58. -/
theorem startConditionFromAnIdleBus : Obligations.StartConditionFromAnIdleBus := by
  intro s hb hpull
  refine (answers_wireEvents_of_unpulled hb (i := .start) (ops := uStart s.cfg) rfl hpull).imp fun t hwire => ?_
  rw [uStart_length, drivesAlong_uStart, accept_drvSda, State.drives] at hwire
  refine ⟨fun hscl hsda => ?_, fun hsda => ?_⟩
  · rw [hscl, hsda] at hwire
    exact hwire
  · rw [hsda] at hwire
    rw [hwire]
    cases s.drvScl <;> decide

/-- Settles O59: with data released the rise of the clock meets a high data line, with data driven low first it does not
and the release of data is the stop condition. -/
theorem stopConditionDependsOnDataLowFirst : Obligations.StopConditionDependsOnDataLowFirst := by
  intro s hb hscl hsda hpull
  have hlen : (uprog s.cfg .stop).length ≤ 6 := by
    rw [uprog, uStop_length]
    split <;> decide
  refine (answers_wireEvents_of_unpulled hb rfl fun k hk => hpull k (hk.trans hlen)).imp fun t hwire => ?_
  rw [hwire, uprog, State.drives, hscl, hsda]
  cases hlow : s.cfg.stopSdaLowFirst with
  | false =>
    rw [uStop_eq_literal hlow, drivesAlong_uStopLiteral, accept_drvSda, hsda]
    rfl
  | true =>
    rw [uStop_eq_lowFirst hlow, drivesAlong_lowFirst, accept_drvScl, hscl]
    rfl

end Sys2Proof.Machine
end

section
/-! XFER as a whole command (spec/41_bus_engine.md R138 to R144), O41, O43 and O44. -/

namespace Sys2Proof.Machine

/-- Settles O41. -/
theorem xferTransfersAByte : Obligations.XferTransfersAByte := by
  refine fun v => ⟨decodeOfEncodeIsTheCommand (.xfer v), fun s hb => ⟨rfl, rfl, ?_⟩⟩
  obtain ⟨hscl, hsda, hshreg, _, _⟩ := runOps_uXfer s.cfg v (accept (encode (.xfer v)) s)
  have hc := completes_of_runOps hb (.xfer v)
  simp only [responseOf, rspAtCompletion, completionSignals, runOps_uXfer_ackbit] at hc
  rwa [uprog, hscl, hsda, hshreg] at hc

/-- If the data driver changes from one step to the next, the clock driver is low in both (R144). -/
def DataChangesClockLow (p q : Drive × Drive) : Prop := p.2 ≠ q.2 → p.1 = .low ∧ q.1 = .low

theorem isChain_drivesAlong_append {R : Drive × Drive → Drive × Drive → Prop} {a b : List MicroOp} {s : State}
    (ha : (s.drives :: drivesAlong a s).IsChain R)
    (hb : ((runOps a s).drives :: drivesAlong b (runOps a s)).IsChain R) :
    (s.drives :: drivesAlong (a ++ b) s).IsChain R := by
  induction a generalizing s with
  | nil => exact hb
  | cons op ops ih =>
    rw [drivesAlong_cons, List.isChain_cons_cons] at ha
    obtain ⟨hhead, htail⟩ := ha
    exact List.isChain_cons_cons.mpr ⟨hhead, ih htail hb⟩

/-- A list that starts with the clock low, leaves it low and changes the data driver only so. -/
def KeepsDataRule (ops : List MicroOp) : Prop :=
  ∀ s : State, s.drvScl = .low →
    (s.drives :: drivesAlong ops s).IsChain DataChangesClockLow ∧ (runOps ops s).drvScl = .low

theorem KeepsDataRule.append {a b : List MicroOp} (ha : KeepsDataRule a) (hb : KeepsDataRule b) :
    KeepsDataRule (a ++ b) := by
  intro s hs
  obtain ⟨hchain, hlow⟩ := ha s hs
  obtain ⟨hchain', hlow'⟩ := hb (runOps a s) hlow
  exact ⟨isChain_drivesAlong_append hchain hchain', by rwa [runOps_append]⟩

theorem KeepsDataRule.rep {a : List MicroOp} (ha : KeepsDataRule a) (n : Nat) : KeepsDataRule (rep n a) := by
  induction n with
  | zero => exact fun s hs => ⟨List.isChain_singleton _, hs⟩
  | succ n ih => exact ha.append ih

theorem keepsDataRule_ld (v : Byte) : KeepsDataRule [.ld v] := by
  intro s hs
  simp [State.effect, State.drives, DataChangesClockLow, hs]

theorem keepsDataRule_uBit (c : Config) : KeepsDataRule (uBit c) := by
  intro s hs
  simp [uBit, busDelay, State.effect, State.drives, DataChangesClockLow, hs]

theorem keepsDataRule_uAck (c : Config) : KeepsDataRule (uAck c) := by
  intro s hs
  simp [uAck, busDelay, State.effect, State.drives, DataChangesClockLow, hs]

theorem keepsDataRule_uXfer (c : Config) (v : Byte) : KeepsDataRule (uXfer c v) :=
  ((keepsDataRule_ld v).append ((keepsDataRule_uBit c).rep 8)).append (keepsDataRule_uAck c)

/-- Settles O43. -/
theorem dataChangesOnlyWhileTheClockIsLow : Obligations.DataChangesOnlyWhileTheClockIsLow := by
  intro v s hb hscl
  obtain ⟨hchain, _⟩ := keepsDataRule_uXfer s.cfg v (accept (encode (.xfer v)) s) hscl
  refine (answers_drivesOf hb (i := .xfer v) (ops := uXfer s.cfg v) rfl).imp fun t hdrives k p q hp hq => ?_
  rw [uXfer_length] at hdrives
  rw [hdrives] at hp hq
  obtain ⟨hk, rfl⟩ := List.getElem?_eq_some_iff.mp hp
  obtain ⟨hk', rfl⟩ := List.getElem?_eq_some_iff.mp hq
  exact List.isChain_iff_getElem.mp hchain k hk'

theorem countP_rep (p : MicroOp → Bool) (n : Nat) (l : List MicroOp) : (rep n l).countP p = n * l.countP p := by
  induction n with
  | zero => rw [Nat.zero_mul]; rfl
  | succ n ih => rw [rep, List.countP_append, ih, Nat.succ_mul, Nat.add_comm]

theorem count_uXfer (op : MicroOp) (c : Config) (v : Byte) :
    (uXfer c v).count op = [MicroOp.ld v].count op + 8 * (uBit c).count op + (uAck c).count op := by
  rw [uXfer, List.count_append, List.count_append, List.count, countP_rep]

theorem minTimeUs_append (a b : List MicroOp) : minTimeUs (a ++ b) = minTimeUs a + minTimeUs b := by
  rw [minTimeUs, List.map_append, List.sum_append]
  rfl

theorem minTimeUs_rep (n : Nat) (l : List MicroOp) : minTimeUs (rep n l) = n * minTimeUs l := by
  induction n with
  | zero => rw [Nat.zero_mul]; rfl
  | succ n ih => rw [rep, minTimeUs_append, ih, Nat.succ_mul, Nat.add_comm]

/-- Two bus delays in each bit phase and one in the acknowledge phase. -/
theorem minTimeUs_uXfer (c : Config) (v : Byte) : minTimeUs (uXfer c v) = 17 * c.tBusUs := by
  have hld : minTimeUs [.ld v] = 0 := rfl
  have hbit : minTimeUs (uBit c) = 2 * c.tBusUs := by
    simp [minTimeUs, uBit, busDelay, MicroOp.minUs, Nat.two_mul]
  have hack : minTimeUs (uAck c) = c.tBusUs := by simp [minTimeUs, uAck, busDelay, MicroOp.minUs]
  rw [uXfer, minTimeUs_append, minTimeUs_append, minTimeUs_rep, hld, hbit, hack]
  omega

/-- Settles O44: the lists evaluate but for `T_BUS_US`, so what depends on its value is added up over the phases. -/
theorem xferCounts : Obligations.XferCounts := by
  intro c v onData onClock
  have hdly : (uXfer c v).count (.dly .us c.tBusUs) = 17 := by
    rw [count_uXfer]
    simp [uBit, uAck, busDelay]
  exact ⟨rfl, rfl, rfl, rfl, rfl, rfl, rfl, rfl, rfl, hdly, rfl, rfl, rfl, rfl, minTimeUs_uXfer c v⟩

end Sys2Proof.Machine
end

section
/-! What the drivers of a command depend on (spec/41_bus_engine.md R141; spec/42_bus_transaction.md R163;
spec/60_exceptions.md R202), O57: the drivers before and the micro-program, because `SHREG` is loaded before it is
read (spec/10_state.md R40) and nothing else of the state is read at all. -/

namespace Sys2Proof.Machine

/-- From any two states with the same drivers the list drives the lines in the same way, step by step. -/
def DrivesDependOnDrives (ops : List MicroOp) : Prop :=
  ∀ s s' : State, s'.drives = s.drives →
    drivesAlong ops s' = drivesAlong ops s ∧ (runOps ops s').drives = (runOps ops s).drives

theorem DrivesDependOnDrives.append {a b : List MicroOp} (ha : DrivesDependOnDrives a) (hb : DrivesDependOnDrives b) :
    DrivesDependOnDrives (a ++ b) := by
  intro s s' h
  obtain ⟨halong, hend⟩ := ha s s' h
  obtain ⟨halong', hend'⟩ := hb _ _ hend
  exact ⟨by rw [drivesAlong_append, drivesAlong_append, halong, halong'], by rw [runOps_append, runOps_append, hend']⟩

theorem runOp_drives_congr {op : MicroOp} {s s' : State} (h : s'.drives = s.drives)
    (hop : op = .setTop → s'.shreg = s.shreg) : (runOp op s').drives = (runOp op s).drives := by
  obtain ⟨hscl, hsda⟩ := Prod.mk.inj h
  cases op with
  | set l d => cases l <;> simp [State.drives, State.effect, hscl, hsda]
  | setTop => simp [State.drives, State.effect, hscl, hop rfl]
  | smp l r => cases r <;> exact h
  | dly u n => exact h
  | ld v => exact h
  | shl => exact h

theorem runOp_shreg_congr {op : MicroOp} {s s' : State} (h : s'.shreg = s.shreg) :
    (runOp op s').shreg = (runOp op s).shreg := by
  cases op with
  | set l d => cases l <;> exact h
  | smp l r => cases r <;> exact h
  | shl => simp [State.effect, h]
  | ld v => rfl
  | setTop => exact h
  | dly u n => exact h

/-- From the same drivers and the same `SHREG` every list drives the lines in the same way. -/
theorem drivesAlong_congr (ops : List MicroOp) {s s' : State} (h : s'.drives = s.drives) (hr : s'.shreg = s.shreg) :
    drivesAlong ops s' = drivesAlong ops s ∧ (runOps ops s').drives = (runOps ops s).drives := by
  induction ops generalizing s s' with
  | nil => exact ⟨rfl, h⟩
  | cons op ops ih =>
    have hop := runOp_drives_congr (op := op) h fun _ => hr
    obtain ⟨halong, hend⟩ := ih hop (runOp_shreg_congr hr)
    exact ⟨by rw [drivesAlong_cons, drivesAlong_cons, hop, halong], hend⟩

/-- A list that loads `SHREG` first. -/
theorem drivesDependOnDrives_ld_cons (v : Byte) (ops : List MicroOp) : DrivesDependOnDrives (.ld v :: ops) := by
  intro s s' h
  obtain ⟨halong, hend⟩ := drivesAlong_congr ops (s := runOp (.ld v) s) (s' := runOp (.ld v) s') h rfl
  exact ⟨congrArg₂ List.cons h halong, hend⟩

/-- A list that does not read `SHREG`. -/
theorem drivesDependOnDrives_of_setTop_notMem {ops : List MicroOp} (hops : .setTop ∉ ops) :
    DrivesDependOnDrives ops := by
  intro s s' h
  induction ops generalizing s s' with
  | nil => exact ⟨rfl, h⟩
  | cons op ops ih =>
    obtain ⟨hne, hrest⟩ := List.ne_and_not_mem_of_not_mem_cons hops
    have hop := runOp_drives_congr (op := op) h fun e => absurd e.symm hne
    obtain ⟨halong, hend⟩ := ih hrest _ _ hop
    exact ⟨by rw [drivesAlong_cons, drivesAlong_cons, hop, halong], hend⟩

theorem uStart_drivesDependOnDrives (c : Config) : DrivesDependOnDrives (uStart c) :=
  drivesDependOnDrives_of_setTop_notMem (by simp [uStart, busDelay])

theorem uStop_drivesDependOnDrives (c : Config) : DrivesDependOnDrives (uStop c) := by
  apply drivesDependOnDrives_of_setTop_notMem
  unfold uStop
  split <;> simp [uStopLiteral, busDelay]

theorem uXfer_drivesDependOnDrives (c : Config) (v : Byte) : DrivesDependOnDrives (uXfer c v) :=
  drivesDependOnDrives_ld_cons v _

/-- What holds of the engine's lists and of single `Dly`, `Set` and `Smp`, and of two lists joined if of each, holds of
every micro-program. -/
theorem uprog_of_append {P : List MicroOp → Prop} {c : Config} (append : ∀ {a b}, P a → P b → P (a ++ b))
    (start : P (uStart c)) (stop : P (uStop c)) (xfer : ∀ v, P (uXfer c v)) (dly : ∀ u n, P [.dly u n])
    (set : ∀ l d, P [.set l d]) (smp : ∀ l, P [.smp l .rsp]) (i : Instr) : P (uprog c i) := by
  have hwrite addr p : P (uWrite c addr p) := append (append (append start (xfer _)) (xfer _)) stop
  have hstrobe n : P (uStrobeWrite c n) := append (hwrite _ n) (dly _ _)
  have hnib n : P (uNib c n) := append (append (hstrobe _) (hstrobe _)) (hstrobe _)
  have hsendb m v : P (uSendb c m v) := append (hnib _) (hnib _)
  have hclear : P (uClear c) := append (hsendb _ _) (dly _ _)
  cases i with
  | llow l => exact set l .low
  | lrel l => exact set l .rel
  | lread l => exact smp l
  | delay => exact dly _ _
  | start => exact start
  | stop => exact stop
  | restart => exact start
  | xfer v => exact xfer v
  | write addr p => exact hwrite addr p
  | sendb m v => exact hsendb m v
  | clear => exact hclear
  | setcur line column => exact hsendb _ _
  | init =>
    exact append (append (append (append (append (append (append (hsendb _ _) (hsendb _ _)) (hsendb _ _)) (hsendb _ _))
      (hsendb _ _)) (hsendb _ _)) (hsendb _ _)) hclear

theorem uprog_drivesDependOnDrives (c : Config) (i : Instr) : DrivesDependOnDrives (uprog c i) :=
  uprog_of_append .append (uStart_drivesDependOnDrives c) (uStop_drivesDependOnDrives c)
    (uXfer_drivesDependOnDrives c) (fun _ _ => drivesDependOnDrives_of_setTop_notMem (by simp))
    (fun _ _ => drivesDependOnDrives_of_setTop_notMem (by simp))
    (fun _ => drivesDependOnDrives_of_setTop_notMem (by simp)) i

/-- Settles O57. -/
theorem acknowledgmentsChangeNoPadSequence : Obligations.AcknowledgmentsChangeNoPadSequence := by
  intro i s s' hb hb' hcfg hscl hsda
  have hdrives : s'.drives = s.drives := Prod.ext hscl hsda
  obtain ⟨halong, _⟩ :=
    uprog_drivesDependOnDrives s.cfg i (accept (encode i) s) (accept (encode i) s') hdrives
  refine ⟨_, _, exec_idle hb i, exec_idle_of_uprog_eq hb' (by rw [hcfg]), ?_, ?_⟩
  · rw [drivesOf_newest_runOps, drivesOf_newest_runOps, hdrives, halong]
  · rw [eventsOf_newest_runOps, eventsOf_newest_runOps]

end Sys2Proof.Machine
end

section
/-! WRITE as a whole command (spec/42_bus_transaction.md R160 to R163), O45. -/

namespace Sys2Proof.Machine

theorem bytesSent_append (a b : List MicroOp) : bytesSent (a ++ b) = bytesSent a ++ bytesSent b :=
  List.filterMap_append

theorem bytesSent_uStop (c : Config) : bytesSent (uStop c) = [] := by
  unfold uStop
  split <;> rfl

theorem bytesSent_uWrite (c : Config) (addr : BusAddr) (p : Byte) :
    bytesSent (uWrite c addr p) = [addressByte addr, p] := by
  rw [uWrite, bytesSent_append, bytesSent_uStop]
  rfl

/-- Settles O45. -/
theorem writeIsOneTransaction : Obligations.WriteIsOneTransaction := by
  refine fun addr p => ⟨decodeOfEncodeIsTheCommand (.write addr p), fun s hb =>
    ⟨rfl, bytesSent_uWrite s.cfg addr p, completes_of_registers hb rfl ?_⟩⟩
  obtain ⟨hscl, hsda, hshreg, hack, hrsp⟩ := uWrite_leaves s.cfg addr p (accept (encode (.write addr p)) s)
  rw [sampledAck, pullAfter_accept] at hack
  exact ⟨hscl, hsda, hshreg, hack, hrsp⟩

end Sys2Proof.Machine
end

section
/-! The levels of a command on a bus that other devices pull (spec/20_memory.md R50), and the data bits a part of its
micro-program puts on the wire (R52), from a low clock to a low clock: the bits of joined parts are joined. -/

namespace Sys2Proof.Machine

/-- The pads of given drivers under a given pull (R50). -/
def padsUnder (p : Pull) (d : Drive × Drive) : Pads := ⟨d.1, d.2, !(driveLow d.1 || p.scl), !(driveLow d.2 || p.sda)⟩

theorem padsOf_entriesAlong_of_pulls {ops : List MicroOp} {s : State} {pull : Nat → Pull}
    (h : ∀ k < ops.length, s.pullAfter k = pull k) :
    padsOf (entriesAlong ops s) = (drivesAlong ops s).mapIdx fun k d => padsUnder (pull k) d := by
  induction ops generalizing s pull with
  | nil => rfl
  | cons op ops ih =>
    have hfirst : (s.effect op).pads = padsUnder (pull 0) (runOp op s).drives := by
      rw [← h 0 (Nat.zero_lt_succ _), ← pull_eq_pullAfter_zero, ← effect_pull op s]
      rfl
    have hrest := ih (s := runOp op s) (pull := fun k => pull (k + 1)) fun k hk => by
      rw [runOp_pullAfter, Nat.add_comm]
      exact h (k + 1) (Nat.succ_lt_succ hk)
    rw [drivesAlong_cons, List.mapIdx_cons, ← hfirst, ← hrest]
    rfl

theorem padsOf_entriesAlong_append (a b : List MicroOp) (s : State) :
    padsOf (entriesAlong (a ++ b) s) = padsOf (entriesAlong a s) ++ padsOf (entriesAlong b (runOps a s)) := by
  rw [entriesAlong_append, padsOf, List.map_append]
  rfl

theorem runOps_pullAfter (ops : List MicroOp) (s : State) (k : Nat) :
    (runOps ops s).pullAfter k = s.pullAfter (ops.length + k) := by
  obtain ⟨_, _, _, _, _, _, henv, hnow⟩ := runOps_frame ops s
  exact pullAfter_of_drop henv hnow k

/-- Pads with both lines low; between two clock pulses any pads with the clock low would do
(`wireFrom_of_clock_low`). -/
def lowPads : Pads := ⟨.low, .low, false, false⟩

/-- With the clock low neither the data level nor what was held before it matters to what follows. -/
theorem wireFrom_of_clock_low {p : Pads} (hp : p.sclIn = false) (held : Option Bool) (qs : List Pads) :
    wireFrom p held qs = wireFrom lowPads none qs := by
  cases qs with
  | nil => rfl
  | cons q qs => simp [wireFrom, isStartCondition, isStopCondition, hp, lowPads]

/-- The list, run from the state with the clock low, shows a receiver these data bits and no condition, and leaves the
clock low. -/
def PutsBits (ops : List MicroOp) (s : State) (bits : List Bool) : Prop :=
  ∀ rest : List Pads, wireFrom lowPads none (padsOf (entriesAlong ops s) ++ rest)
    = bits.map WireEvent.bit ++ wireFrom lowPads none rest

theorem PutsBits.append {a b : List MicroOp} {s : State} {bits bits' : List Bool} (ha : PutsBits a s bits)
    (hb : PutsBits b (runOps a s) bits') : PutsBits (a ++ b) s (bits ++ bits') := by
  intro rest
  rw [padsOf_entriesAlong_append, List.append_assoc, ha, hb, List.map_append, List.append_assoc]

theorem putsBits_ld (v : Byte) {s : State} (hs : s.drvScl = .low) : PutsBits [.ld v] s [] := by
  intro rest
  have hlow : (s.effect (.ld v)).pads.sclIn = false := level_eq_false_iff.mpr (.inl hs)
  rw [← wireFrom_of_clock_low hlow none rest]
  simp [entriesAlong, padsOf, wireFrom, isStartCondition, isStopCondition, lowPads, hlow]

theorem drivesAlong_uBit (c : Config) (s : State) :
    drivesAlong (uBit c) s = [(s.drvScl, bitstate (s.shreg.getLsbD 7)), (.rel, bitstate (s.shreg.getLsbD 7)),
      (.rel, bitstate (s.shreg.getLsbD 7)), (.low, bitstate (s.shreg.getLsbD 7)),
      (.low, bitstate (s.shreg.getLsbD 7)), (.low, bitstate (s.shreg.getLsbD 7))] := rfl

theorem drivesAlong_uAck (c : Config) (s : State) :
    drivesAlong (uAck c) s = [(s.drvScl, .rel), (.rel, .rel), (.rel, .rel), (.rel, .rel), (.low, .rel)] := rfl

/-- One bit phase is one data bit, the top bit of `SHREG` (R139). -/
theorem putsBits_uBit (c : Config) {s : State} (hs : s.drvScl = .low)
    (hpull : ∀ k < 6, s.pullAfter k = ⟨false, false⟩) : PutsBits (uBit c) s [s.shreg.getLsbD 7] := by
  intro rest
  have hlow : (unpulledPads (.low, bitstate (s.shreg.getLsbD 7))).sclIn = false := rfl
  rw [padsOf_entriesAlong_of_unpulled (ops := uBit c) hpull, drivesAlong_uBit, hs,
    ← wireFrom_of_clock_low hlow none rest]
  cases s.shreg.getLsbD 7 <;> rfl

/-- The acknowledge phase is one data bit, low if another device pulls the data line through the slot (R140). -/
theorem putsBits_uAck (c : Config) (a : Bool) {s : State} (hs : s.drvScl = .low)
    (hpull : ∀ k < 5, s.pullAfter k = ⟨false, decide (k < 4) && a⟩) : PutsBits (uAck c) s [!a] := by
  intro rest
  have hlow : (padsUnder ⟨false, false⟩ (.low, .rel)).sclIn = false := rfl
  rw [padsOf_entriesAlong_of_pulls (ops := uAck c) hpull, drivesAlong_uAck, hs, ← wireFrom_of_clock_low hlow none rest]
  cases a <;> rfl

/-- The `n` top bits of a byte, most significant first (R57). -/
def topBits : Nat → Byte → List Bool
  | 0, _ => []
  | n + 1, v => v.getLsbD 7 :: topBits n (v <<< 1)

theorem topBits_length (n : Nat) (v : Byte) : (topBits n v).length = n := by
  induction n generalizing v with
  | zero => rfl
  | succ n ih => exact congrArg (· + 1) (ih _)

theorem byteOfBits_topBits : ∀ v : Byte, byteOfBits (topBits 8 v) = v := by decide

theorem putsBits_rep_uBit (c : Config) (n : Nat) {s : State} (hs : s.drvScl = .low)
    (hpull : ∀ k < 6 * n, s.pullAfter k = ⟨false, false⟩) :
    PutsBits (rep n (uBit c)) s (topBits n s.shreg) ∧ (runOps (rep n (uBit c)) s).drvScl = .low := by
  induction n generalizing s with
  | zero => exact ⟨fun _ => rfl, hs⟩
  | succ n ih =>
    obtain ⟨hscl, _, hshreg, _⟩ := runOps_uBit c s
    obtain ⟨hbits, hend⟩ := ih hscl fun k hk => by
      rw [runOps_pullAfter]
      exact hpull _ (by simp [uBit]; omega)
    rw [hshreg] at hbits
    exact ⟨(putsBits_uBit c hs fun k hk => hpull k (by omega)).append hbits, by rwa [rep, runOps_append]⟩

/-- From here on, for the length of one byte transfer, no other device pulls the clock, and the data line is pulled
exactly in the acknowledgment slot, and there if `a`. -/
def State.AckSlotPulled (s : State) (a : Bool) : Prop :=
  ∀ k < 54, s.pullAfter k = ⟨false, decide (49 ≤ k ∧ k < 53) && a⟩

/-- A byte transfer is nine data bits: the byte and the acknowledgment (R138, R57). -/
theorem putsBits_uXfer (c : Config) (v : Byte) {a : Bool} {s : State} (hs : s.drvScl = .low)
    (hpull : s.AckSlotPulled a) : PutsBits (uXfer c v) s (topBits 8 v ++ [!a]) := by
  obtain ⟨hbits, hlow⟩ := putsBits_rep_uBit c 8 (s := runOp (.ld v) s) hs fun k hk => by
    rw [runOp_pullAfter, hpull _ (by omega), decide_eq_false (by omega)]
    rfl
  have hbyte : PutsBits ([.ld v] ++ rep 8 (uBit c)) s (topBits 8 v) := (putsBits_ld v hs).append hbits
  refine hbyte.append (putsBits_uAck c a ?_ fun k hk => ?_)
  · rwa [runOps_append]
  · rw [runOps_pullAfter]
    have hlen : ([MicroOp.ld v] ++ rep 8 (uBit c)).length = 49 := rfl
    rw [hlen, hpull _ (by omega)]
    simp [show 49 + k < 53 ↔ k < 4 by omega]

end Sys2Proof.Machine
end

section
/-! The frame a receiver reads of a WRITE (spec/30_encoding.md R84, spec/42_bus_transaction.md R165; log entry 10), O60:
START is the start condition, the two transfers are its eighteen data bits, and STOP adds none. -/

namespace Sys2Proof.Machine

theorem framesFrom_bits {bs cs : List Bool} (h : bs.length + cs.length ≤ 17) (rest : List WireEvent) :
    framesFrom (some bs) (cs.map WireEvent.bit ++ rest) = framesFrom (some (bs ++ cs)) rest := by
  induction cs generalizing bs with
  | nil => rw [List.append_nil]; rfl
  | cons c cs ih =>
    rw [List.length_cons] at h
    have hshort : bs.length ≠ 17 := by omega
    rw [List.map_cons, List.cons_append, framesFrom, if_neg hshort, ih (by simp; omega), ← List.append_cons]

/-- A start condition and eighteen data bits are a frame (log entry 10). -/
theorem framesFrom_start_eighteen_bits {as ps : List Bool} (ha : as.length = 8) (hp : ps.length = 8) (b1 b2 : Bool)
    (rest : List WireEvent) :
    framesFrom none (.start :: ((as ++ [b1] ++ (ps ++ [b2])).map WireEvent.bit ++ rest))
      = ⟨byteOfBits as, b1, byteOfBits ps, b2⟩ :: framesFrom none rest := by
  have hlen : (as ++ [b1] ++ ps).length = 17 := by simp [ha, hp]
  have hack : (as ++ [b1] ++ ps).getD 8 true = b1 := by simp [← ha]
  have haddr : (as ++ [b1] ++ ps).take 8 = as := by simp [← ha]
  have hpay : ((as ++ [b1] ++ ps).drop 9).take 8 = ps := by
    rw [List.drop_left' (by simp [ha]), List.take_of_length_le hp.le]
  rw [framesFrom, ← List.append_assoc, List.map_append, List.append_assoc, framesFrom_bits (by simp [ha, hp]),
    List.map_singleton, List.singleton_append, List.nil_append, framesFrom, if_pos hlen, hack, haddr, hpay]

/-- From an idle bus START is a start condition and leaves the clock low (R133). -/
theorem wireFrom_uStart (c : Config) {s : State} (hsda : s.drvSda = .rel)
    (hpull : ∀ k < 6, s.pullAfter k = ⟨false, false⟩) (rest : List Pads) :
    wireFrom (unpulledPads (.rel, .rel)) none (padsOf (entriesAlong (uStart c) s) ++ rest)
      = .start :: wireFrom lowPads none rest := by
  rw [padsOf_entriesAlong_of_unpulled (ops := uStart c) hpull, drivesAlong_uStart, hsda]
  rfl

/-- STOP after a transfer shows a receiver no data bit: the clock rises and does not fall again (R136). -/
theorem framesFrom_wireFrom_uStop (c : Config) {s : State} (hscl : s.drvScl = .low) (hsda : s.drvSda = .rel)
    (hpull : ∀ k < (uStop c).length, s.pullAfter k = ⟨false, false⟩) :
    framesFrom none (wireFrom lowPads none (padsOf (entriesAlong (uStop c) s))) = [] := by
  rw [padsOf_entriesAlong_of_unpulled hpull]
  cases hlow : c.stopSdaLowFirst with
  | false =>
    rw [uStop_eq_literal hlow, drivesAlong_uStopLiteral, hsda]
    rfl
  | true =>
    rw [uStop_eq_lowFirst hlow, drivesAlong_lowFirst, hscl]
    rfl

/-- What other devices pull `k` steps from a WRITE's acceptance on: the data line, through the slot of the first
acknowledgment if `a1` and through the slot of the second if `a2`. -/
def slotPull (a1 a2 : Bool) (k : Nat) : Pull :=
  ⟨false, (decide (56 ≤ k ∧ k < 60) && a1) || (decide (110 ≤ k ∧ k < 114) && a2)⟩

theorem slotPull_outside_slots {k : Nat} (h : k < 56 ∨ 114 ≤ k) (a1 a2 : Bool) :
    slotPull a1 a2 k = ⟨false, false⟩ := by
  rw [slotPull, decide_eq_false (by omega : ¬ (56 ≤ k ∧ k < 60)), decide_eq_false (by omega : ¬ (110 ≤ k ∧ k < 114))]
  rfl

/-- The first transfer begins seven steps after the acceptance. -/
theorem slotPull_first_transfer {k : Nat} (hk : k < 54) (a1 a2 : Bool) :
    slotPull a1 a2 (7 + k) = ⟨false, decide (49 ≤ k ∧ k < 53) && a1⟩ := by
  have hslot : 56 ≤ 7 + k ∧ 7 + k < 60 ↔ 49 ≤ k ∧ k < 53 := by omega
  have hother : ¬ (110 ≤ 7 + k ∧ 7 + k < 114) := by omega
  simp [slotPull, hslot, hother]

/-- The second transfer begins when the first has run its fifty-four steps. -/
theorem slotPull_second_transfer (k : Nat) (a1 a2 : Bool) :
    slotPull a1 a2 (61 + k) = ⟨false, decide (49 ≤ k ∧ k < 53) && a2⟩ := by
  have hslot : 110 ≤ 61 + k ∧ 61 + k < 114 ↔ 49 ≤ k ∧ k < 53 := by omega
  have hother : ¬ (56 ≤ 61 + k ∧ 61 + k < 60) := by omega
  simp [slotPull, hslot, hother]

/-- The two transfers of a WRITE are the eighteen data bits of its frame, and leave the bus as STOP finds it. -/
theorem putsBits_two_transfers (c : Config) (v p : Byte) {a1 a2 : Bool} {s : State} (hs : s.drvScl = .low)
    (hpull : ∀ k < 108, s.pullAfter k = slotPull a1 a2 (7 + k)) :
    PutsBits (uXfer c v ++ uXfer c p) s (topBits 8 v ++ [!a1] ++ (topBits 8 p ++ [!a2])) ∧
      (runOps (uXfer c v ++ uXfer c p) s).drvScl = .low ∧ (runOps (uXfer c v ++ uXfer c p) s).drvSda = .rel := by
  obtain ⟨hscl, _⟩ := runOps_uXfer c v s
  obtain ⟨hscl', hsda', _⟩ := runOps_uXfer c p (runOps (uXfer c v) s)
  have hv := putsBits_uXfer c v hs fun k hk => by
    rw [hpull k (by omega), slotPull_first_transfer hk]
  have hp := putsBits_uXfer c p hscl fun k hk => by
    rw [runOps_pullAfter, uXfer_length, hpull _ (by omega), ← Nat.add_assoc, slotPull_second_transfer]
  rw [runOps_append]
  exact ⟨hv.append hp, hscl', hsda'⟩

/-- The micro-program of a WRITE on an idle bus shows a receiver one frame, its slots low exactly where pulled. -/
theorem framesFrom_wireFrom_uWrite (c : Config) (addr : BusAddr) (p : Byte) {a1 a2 : Bool} {s : State}
    (hsda : s.drvSda = .rel) (hpull : ∀ k < 120, s.pullAfter k = slotPull a1 a2 (1 + k)) :
    framesFrom none (wireFrom (unpulledPads (.rel, .rel)) none (padsOf (entriesAlong (uWrite c addr p) s)))
      = [⟨addressByte addr, !a1, p, !a2⟩] := by
  obtain ⟨hlow, _⟩ := runOps_uStart c s
  have hstart := wireFrom_uStart c hsda fun k hk => by
    rw [hpull k (by omega), slotPull_outside_slots (by omega)]
  obtain ⟨hbits, hscl', hsda'⟩ := putsBits_two_transfers c (addressByte addr) p hlow fun k hk => by
    rw [runOps_pullAfter, uStart_length, hpull _ (by omega), ← Nat.add_assoc]
  have hstop := framesFrom_wireFrom_uStop c hscl' hsda' fun k hk => by
    have hlen : (uStop c).length ≤ 6 := by rw [uStop_length]; split <;> decide
    rw [runOps_pullAfter, runOps_pullAfter, List.length_append, uXfer_length, uXfer_length, uStart_length,
      hpull _ (by omega), slotPull_outside_slots (by omega)]
  rw [uWrite, List.append_assoc (uStart c), List.append_assoc, padsOf_entriesAlong_append, hstart,
    padsOf_entriesAlong_append, hbits,
    framesFrom_start_eighteen_bits (topBits_length 8 _) (topBits_length 8 _), hstop, byteOfBits_topBits,
    byteOfBits_topBits]

/-- What a receiver reads of a whole command: the frames of the pads it records (log entry 10). -/
theorem answers_frames {s : State} (hb : s.busy = false) (i : Instr) : Answers (exec i s) fun t =>
    frames s.pads (t.newest ((uprog s.cfg i).length + 1))
      = framesFrom none (wireFrom s.pads none
          (s.pads :: padsOf (entriesAlong (uprog s.cfg i) (accept (encode i) s)))) :=
  ⟨_, exec_idle hb i, congrArg (fun ps => framesFrom none (wireFrom s.pads none ps))
    (padsOf_newest_runOps _ (uprog s.cfg i) s _)⟩

/-- A step that leaves an idle bus idle shows a receiver nothing. -/
theorem wireFrom_idle_cons (ps : List Pads) :
    wireFrom (unpulledPads (.rel, .rel)) none (unpulledPads (.rel, .rel) :: ps)
      = wireFrom (unpulledPads (.rel, .rel)) none ps := rfl

/-- Settles O60: acceptance leaves the idle bus as it is, so the frame is that of the micro-program. -/
theorem aReceiverReadsTheFrameOfAWrite : Obligations.AReceiverReadsTheFrameOfAWrite := by
  intro addr p s a1 a2 hb hscl hsda hpull
  have hidle : s.pads = unpulledPads (.rel, .rel) := by
    rw [pads_of_unpulled ((pull_eq_pullAfter_zero s).trans (hpull 0 (by omega))), State.drives, hscl, hsda]
  refine (answers_frames hb (.write addr p)).imp fun t hframes => ?_
  rw [hframes, hidle, wireFrom_idle_cons, uprog]
  exact framesFrom_wireFrom_uWrite s.cfg addr p hsda fun k hk => by
    rw [pullAfter_accept]
    exact hpull (1 + k) (by omega)

end Sys2Proof.Machine
end

section
/-! The length of every micro-program (spec/42_bus_transaction.md R164, spec/43_display_controller.md R175, R177, R183),
O51. -/

namespace Sys2Proof.Machine

theorem sendbSteps_eq (c : Config) : sendbSteps c = if c.stopSdaLowFirst then 726 else 714 := by
  unfold sendbSteps writeSteps
  split <;> rfl

/-- Settles O51: from SENDB on, a length is that of its SENDBs and of the clear delay. -/
theorem microProgramLengths : Obligations.MicroProgramLengths := by
  intro c i
  cases i with
  | llow l | lrel l | lread l | delay | start | restart | xfer v => rfl
  | stop => exact uStop_length c
  | write addr p => exact uWrite_length c addr p
  | sendb m v => exact (uSendb_length c m v).trans (sendbSteps_eq c)
  | setcur line column => exact (uSendb_length c _ _).trans (sendbSteps_eq c)
  | clear =>
    simp only [uprog, uClear_length, sendbSteps_eq]
    split <;> rfl
  | init =>
    simp only [uprog, uInit_length, sendbSteps_eq]
    split <;> rfl

end Sys2Proof.Machine
end

section
/-! SENDB, SETCUR and INIT as whole commands (spec/43_display_controller.md R170, R171, R178, R180), O46, O48 and O49.
Each ends on the bus, so what it leaves in the registers is `LeavesBusIdle`. -/

namespace Sys2Proof.Machine

/-- A command without a response whose micro-program leaves the bus idle: its `ACKBIT` is the sample taken one step
later than in the micro-program, for its acceptance is a step too. -/
theorem completes_of_leavesBusIdle {s : State} (hb : s.busy = false) {i : Instr} (hr : responseOf i = .none) {k : Nat}
    (h : LeavesBusIdle (uprog s.cfg i) k) : Completes i s .rel .rel 0#8 (sampledAck s (1 + k)) s.rsp .done := by
  obtain ⟨hscl, hsda, hshreg, hack, hrsp⟩ := h (accept (encode i) s)
  rw [sampledAck, pullAfter_accept] at hack
  exact completes_of_registers hb hr ⟨hscl, hsda, hshreg, hack, hrsp⟩

theorem byteOfBit_eq_ite (b : Bool) : byteOfBit b = if b then 0x01#8 else 0x00#8 := by cases b <;> rfl

theorem decode_sendb (m : Mode) (v : Byte) :
    decode (0xA#4 ++ (if m then 0x01#8 else 0x00#8) ++ v) = .ok (.sendb m v) := by
  rw [← byteOfBit_eq_ite]
  exact decodeOfEncodeIsTheCommand (.sendb m v)

/-- Settles O46. -/
theorem sendbDeliversSixBytes : Obligations.SendbDeliversSixBytes :=
  fun m v => ⟨decode_sendb m v, fun s hb => ⟨rfl, completes_of_leavesBusIdle hb rfl (uSendb_leaves s.cfg m v)⟩⟩

/-- Settles O48: the two lines differ in the base of the cursor byte only. -/
theorem setcurSendsTheCursorByte : Obligations.SetcurSendsTheCursorByte := by
  intro line column
  refine ⟨?_, fun s hb => ⟨?_, microProgramLengths s.cfg (.setcur line column),
    completes_of_leavesBusIdle hb rfl (uSendb_leaves s.cfg _ _)⟩⟩
  · cases line with
    | line0 => exact decodeOfEncodeIsTheCommand (.setcur .line0 column)
    | line1 => exact decodeOfEncodeIsTheCommand (.setcur .line1 column)
  · cases line <;> rfl

/-- Settles O49. -/
theorem initRunsTheHandshake : Obligations.InitRunsTheHandshake :=
  ⟨decodeOfEncodeIsTheCommand .init, fun s hb => ⟨rfl, completes_of_leavesBusIdle hb rfl (uInit_leaves s.cfg)⟩⟩

end Sys2Proof.Machine
end

section
/-! CLEAR and its wait (spec/43_display_controller.md R176, spec/60_exceptions.md R206), O47. -/

namespace Sys2Proof.Machine

/-- The newest entry of a whole command records its last micro-operation, with the completion. -/
theorem newest_complete_runOps_concat (r : Response) (ops : List MicroOp) (op : MicroOp) (s : State) :
    ((complete r (runOps (ops ++ [op]) s)).newest 1).map (fun e => (e.event, e.completion))
      = [(.micro op, completionSignals r (runOps (ops ++ [op]) s))] := by
  have hlast : runOps (ops ++ [op]) s = runOp op (runOps ops s) := runOps_append ops [op] s
  rw [hlast, State.newest, complete_trace_of_cons (runOp_trace op _)]
  rfl

theorem uClear_getLast? (c : Config) : (uClear c).getLast? = some (clearDelay c) := List.getLast?_concat

/-- The last position of CLEAR is its clear delay. -/
theorem uprog_clear_getElem?_last {c : Config} {k : Nat} (hk : k + 1 = (uprog c .clear).length) :
    (uprog c .clear)[k]? = some (clearDelay c) := by
  rw [uprog] at hk ⊢
  rw [← uClear_getLast? c, List.getLast?_eq_getElem?, ← hk, Nat.add_sub_cancel]

section
variable {s : State} {i : Instr} {u : TimeUnit} {n : Nat} (hb : s.busy = true) (hd : decode s.cmd = .ok i)
  (hop : (uprog s.cfg i)[s.upc]? = some (.dly u n)) (w : CmdWord) (rest : List PortInput)
include hb hd hop

/-- A word presented at a `Dly` without the answer is not accepted, and the delay goes on (R206). -/
theorem answers_step_present_at_dly_unanswered : Answers (step (s.setPort (.present w false :: rest))) fun t =>
    t.busy = true ∧ t.upc = s.upc ∧ t.cmd = s.cmd ∧ t.illegal = s.illegal ∧ t.outputs.done = false :=
  ⟨_, step_dly_unanswered (s := s.setPort (.present w false :: rest)) hb (.inr ⟨w, rfl⟩) hd hop, hb, rfl, rfl, rfl,
    outputs_done_of_trace (awaitTimer_trace (s.setPort rest) (.dly u n))⟩

/-- A word presented in the step that answers the last `Dly` of a command is not accepted: the command completes
(R206). -/
theorem answers_step_present_at_last_dly_answered (hlast : s.upc + 1 = (uprog s.cfg i).length) :
    Answers (step (s.setPort (.present w true :: rest))) fun t =>
      t.busy = false ∧ t.cmd = s.cmd ∧ t.illegal = s.illegal ∧ t.outputs.done = true := by
  obtain ⟨p, hstep⟩ := step_busy_of_op_ends (s := s.setPort (.present w true :: rest)) hb (by simp) (.inr rfl) hd hop
  rw [setPort_setPort, setPort_upc, setPort_cfg, if_pos hlast] at hstep
  obtain ⟨_, hill, _, hcmd, _⟩ := finishOp_frame (.dly u n) (s.setPort p)
  obtain ⟨hdone, _⟩ := outputs_complete (finishOp_trace (.dly u n) (s.setPort p)) (responseOf i)
  exact ⟨_, hstep, rfl, hcmd, hill, hdone⟩

end

/-- Settles O47: up to the delay it is O33, in the delay it is what a step at a `Dly` does. -/
theorem clearSendsTheClearCodeAndWaits : Obligations.ClearSendsTheClearCodeAndWaits := by
  have hdecode : decode 0xB0000#20 = .ok .clear := decodeOfEncodeIsTheCommand .clear
  refine ⟨hdecode, fun s hb => ⟨rfl, completes_of_leavesBusIdle hb rfl (uClear_leaves s.cfg),
    ⟨_, exec_idle hb .clear, newest_complete_runOps_concat .none _ (clearDelay s.cfg) _⟩, fun j rest hj => ?_⟩,
    fun s hb hd hlast => ?_⟩
  · exact (busyUntilTheLastMicroOperation s _ .clear j rest hb hdecode hj).imp
      fun t ⟨hbusy, _, hupc, _⟩ => ⟨hbusy, hupc⟩
  · have hop := uprog_clear_getElem?_last hlast
    exact ⟨hop, hb, by simp [State.outputs, hb], fun w rest =>
      ⟨answers_step_present_at_dly_unanswered hb hd hop w rest,
        answers_step_present_at_last_dly_answered hb hd hop w rest hlast⟩⟩

end Sys2Proof.Machine
end

section
/-! The bytes and the millisecond delays of INIT (spec/43_display_controller.md R182), O50. -/

namespace Sys2Proof.Machine

/-- The payload bytes of a nibble group (R171). -/
def nibblePayload (c : Config) (n : Byte) : List Byte := [n, enableSet c n, enableClear c n]

/-- The payload bytes of a SENDB (R170). -/
def sendbPayload (c : Config) (m : Mode) (v : Byte) : List Byte :=
  nibblePayload c (highNibbleByte c m v) ++ nibblePayload c (lowNibbleByte c m v)

/-- The payload bytes of INIT, eight SENDBs (R180). -/
def initPayload (c : Config) : List Byte :=
  [0x03#8, 0x03#8, 0x03#8, 0x02#8, entryModeByte c, functionSetByte c, displayOnByte c, c.lcdClearDisplay].flatMap
    (sendbPayload c c.modeCommand)

/-- The bytes of one WRITE of each payload byte to the target (R160). -/
def toTarget (c : Config) (ps : List Byte) : List Byte := ps.flatMap fun p => [addressByte c.addr, p]

theorem toTarget_append (c : Config) (ps qs : List Byte) : toTarget c (ps ++ qs) = toTarget c ps ++ toTarget c qs :=
  List.flatMap_append

theorem bytesSent_uNib (c : Config) (n : Byte) : bytesSent (uNib c n) = toTarget c (nibblePayload c n) := by
  have hdelay : bytesSent [strobeDelay c] = [] := rfl
  simp only [uNib, uStrobeWrite, bytesSent_append, bytesSent_uWrite, hdelay]
  rfl

theorem bytesSent_uSendb (c : Config) (m : Mode) (v : Byte) :
    bytesSent (uSendb c m v) = toTarget c (sendbPayload c m v) := by
  rw [uSendb, bytesSent_append, bytesSent_uNib, bytesSent_uNib, sendbPayload, toTarget_append]

theorem bytesSent_uInit (c : Config) : bytesSent (uInit c) = toTarget c (initPayload c) := by
  have hdelay : bytesSent [clearDelay c] = [] := rfl
  simp [uInit, uClear, bytesSent_append, bytesSent_uSendb, hdelay, initPayload, toTarget_append]

/-- How many millisecond delays a micro-program asks for. -/
def msDelays (ops : List MicroOp) : Nat := (delaysAsked ops).countP fun d => d.1 == .ms

theorem delaysAsked_append (a b : List MicroOp) : delaysAsked (a ++ b) = delaysAsked a ++ delaysAsked b :=
  List.filterMap_append

theorem msDelays_append (a b : List MicroOp) : msDelays (a ++ b) = msDelays a + msDelays b := by
  rw [msDelays, delaysAsked_append, List.countP_append]
  rfl

theorem msDelays_uSendb (c : Config) (m : Mode) (v : Byte) : msDelays (uSendb c m v) = 0 := by
  have hstart : msDelays (uStart c) = 0 := rfl
  have hxfer p : msDelays (uXfer c p) = 0 := rfl
  have hstop : msDelays (uStop c) = 0 := by unfold uStop; split <;> rfl
  have hstrobe : msDelays [strobeDelay c] = 0 := rfl
  simp only [uSendb, uNib, uStrobeWrite, uWrite, msDelays_append, hstart, hxfer, hstop, hstrobe]

theorem msDelays_uInit (c : Config) : msDelays (uInit c) = 1 := by
  have hclear : msDelays [clearDelay c] = 1 := rfl
  simp only [uInit, uClear, msDelays_append, msDelays_uSendb, hclear]

theorem uInit_getLast? (c : Config) : (uInit c).getLast? = some (clearDelay c) := by
  rw [uInit, List.getLast?_append, uClear_getLast?]
  rfl

/-- Settles O50: the payload depends on the masks and codes only, and for the defaults it evaluates to the table. -/
theorem initPayloadBytes : Obligations.InitPayloadBytes := by
  intro addr busUs strobeUs clearMs lowFirst c
  refine ⟨(bytesSent_uInit c).trans (congrArg (toTarget c) ?_), uInit_getLast? c, msDelays_uInit c⟩
  have hdefaults : initPayload c = initPayload (Config.defaultWith 0) := rfl
  rw [hdefaults]
  decide

end Sys2Proof.Machine
end

section
/-! An illegal word given to an idle block (spec/60_exceptions.md R203), O19. -/

namespace Sys2Proof.Machine

section
variable {s : State} {w : CmdWord} {e : IllFormed} {p : List PortInput} (hb : s.busy = false) (hd : decode w = .error e)
include hb hd

theorem step_call_illegal (hp : s.port = .call w :: p) : step s = .next (raiseIllegal w (s.setPort p)) := by
  simp [step, fetch, hp, callStep, hb, hd]

/-- Presented or called, an illegal word is taken from the port and raises `Illegal`. -/
theorem step_illegal (hp : (∃ d, s.port = .present w d :: p) ∨ s.port = .call w :: p) :
    step s = .next (raiseIllegal w (s.setPort p)) := by
  obtain ⟨d, hp⟩ | hp := hp
  · exact step_present_illegal hb hp hd
  · exact step_call_illegal hb hd hp

end

/-- Settles O19: the step is `raiseIllegal`, and its laws are what each register becomes. -/
theorem anIllegalWordSetsTheFlagAndNothingElse : Obligations.AnIllegalWordSetsTheFlagAndNothingElse := by
  intro s w e rest hb hp hd
  have hdone : (raiseIllegal w (s.setPort rest)).outputs.done = false := outputs_done_of_trace (raiseIllegal_trace _ w)
  exact ⟨_, step_illegal hb hd hp, rfl, rfl, rfl, rfl, rfl, rfl, rfl, hb, rfl, rfl, rfl, rfl, hdone, rfl, rfl, rfl⟩

end Sys2Proof.Machine
end

section
/-! The operations of a command and `ILLEGAL` (spec/10_state.md R30, spec/60_exceptions.md R207), O22: none of them
reads the flag, so each commutes with a change of it. -/

namespace Sys2Proof.Machine

/-- `ILLEGAL <- b`. -/
def State.setIllegal (s : State) (b : Bool) : State := { s with illegal := b }

theorem effect_setIllegal (op : MicroOp) (s : State) (b : Bool) :
    (s.setIllegal b).effect op = (s.effect op).setIllegal b := by
  cases op with
  | set l d => cases l <;> rfl
  | smp l r => cases l <;> cases r <;> rfl
  | setTop | dly u n | ld v | shl => rfl

theorem runOp_setIllegal (op : MicroOp) (s : State) (b : Bool) :
    runOp op (s.setIllegal b) = (runOp op s).setIllegal b := by
  rw [runOp, effect_setIllegal]
  rfl

theorem finishOp_setIllegal (op : MicroOp) (s : State) (b : Bool) :
    finishOp op (s.setIllegal b) = (finishOp op s).setIllegal b := by
  rw [finishOp, effect_setIllegal]
  rfl

theorem runOps_setIllegal (ops : List MicroOp) (s : State) (b : Bool) :
    runOps ops (s.setIllegal b) = (runOps ops s).setIllegal b := by
  induction ops generalizing s with
  | nil => rfl
  | cons op ops ih => rw [runOps_cons, runOp_setIllegal, ih, runOps_cons]

theorem complete_setIllegal (r : Response) (s : State) (b : Bool) :
    complete r (s.setIllegal b) = (complete r s).setIllegal b := by
  cases r <;> rfl

/-- The flag decides neither which of its branches a step of a busy block takes nor what it does there. -/
theorem advance_setIllegal (d : Bool) (s : State) (b : Bool) :
    advance d (s.setIllegal b) = mapNext (·.setIllegal b) (advance d s) := by
  have hcmd : (s.setIllegal b).cmd = s.cmd := rfl
  have hprog i : (uprog (s.setIllegal b).cfg i).drop (s.setIllegal b).upc = (uprog s.cfg i).drop s.upc := rfl
  unfold advance
  rw [hcmd]
  cases decode s.cmd with
  | error e => rfl
  | ok i =>
    simp only [hprog]
    cases (uprog s.cfg i).drop s.upc with
    | nil => rfl
    | cons op rest =>
      simp only [finishOp_setIllegal, complete_setIllegal]
      split_ifs <;> rfl

/-- Settles O22. -/
theorem theIllegalFlagInfluencesNothing : Obligations.TheIllegalFlagInfluencesNothing := by
  intro i s b
  change exec i (s.setIllegal b) = mapNext (·.setIllegal b) (exec i s)
  obtain hb | hb := Bool.eq_false_or_eq_true s.busy
  · rw [exec_busy hb, exec_busy (s := s.setIllegal b) hb, advance_setIllegal]
  · have haccept : accept (encode i) (s.setIllegal b) = (accept (encode i) s).setIllegal b := rfl
    have hcfg : (s.setIllegal b).cfg = s.cfg := rfl
    rw [exec_idle hb, exec_idle (s := s.setIllegal b) hb, haccept, hcfg, runOps_setIllegal, complete_setIllegal]
    rfl

end Sys2Proof.Machine
end

section
/-! One thing per step (spec/60_exceptions.md R206), and no step that stops (R200, spec/41_bus_engine.md R146), O26 and
O29. -/

namespace Sys2Proof.Machine

/-- Settles O26: the cases are what one step can do, of which a called command alone is more than one event. -/
theorem oneEventPerStep : Obligations.OneEventPerStep := by
  intro s t hcall h
  obtain ⟨p, _, hst⟩ | ⟨_, _, p, hst⟩ | ⟨_, _, hst⟩ | ⟨_, w, _, _, p, _, _, hst⟩ | ⟨_, w, _, p, _, _, hst⟩ |
    ⟨hb, w, _, p, _, hp, _⟩ := step_cases s
  · -- a reset
    rw [hst] at h; cases h; exact ⟨⟨_, rfl⟩, rfl, rfl⟩
  · -- the running command goes on
    rw [hst] at h
    obtain ⟨_, _, _, _, _, henv, hnow, htrace⟩ := advance_frame h
    exact ⟨htrace, hnow, henv⟩
  · -- an idle block waits
    rw [hst] at h; cases h; exact ⟨⟨_, rfl⟩, rfl, rfl⟩
  · -- a presented word is accepted
    rw [hst] at h; cases h; exact ⟨⟨_, rfl⟩, rfl, rfl⟩
  · -- an illegal word
    rw [hst] at h; cases h; exact ⟨⟨_, rfl⟩, rfl, rfl⟩
  · -- a called word, which the hypothesis excludes
    obtain hbusy | hno := hcall
    · exact absurd (hb.symm.trans hbusy) Bool.false_ne_true
    · exact absurd hp (hno w p)

/-- A busy block in order stands at a micro-operation of a legal command. -/
theorem exists_op_of_sequencerOk {s : State} (hb : s.busy = true) (h : s.sequencerOk = true) :
    ∃ i op, decode s.cmd = .ok i ∧ (uprog s.cfg i)[s.upc]? = some op := by
  rw [State.sequencerOk, if_pos hb] at h
  cases hd : decode s.cmd with
  | error e => simp [hd] at h
  | ok i =>
    cases hop : (uprog s.cfg i)[s.upc]? with
    | none => simp [hd, hop] at h
    | some op => exact ⟨i, op, rfl, hop⟩

theorem exists_advance_eq_next {s : State} (hb : s.busy = true) (h : s.sequencerOk = true) (d : Bool) :
    ∃ t, advance d s = .next t := by
  obtain ⟨i, op, hd, hop⟩ := exists_op_of_sequencerOk hb h
  exact ⟨_, advance_at d hd hop⟩

/-- Settles O29: of what one step can do, only a step of a busy block can stop, and at a micro-operation it does not. -/
theorem noStepStops : Obligations.NoStepStops := by
  intro s hs
  obtain ⟨p, _, hst⟩ | ⟨hb, _, p, hst⟩ | ⟨_, _, hst⟩ | ⟨_, w, _, _, p, _, _, hst⟩ | ⟨_, w, _, p, _, _, hst⟩ |
    ⟨hb, w, i, p, _, _, hst⟩ := step_cases s <;> rw [hst]
  · -- a reset
    exact ⟨_, rfl⟩
  · -- the running command goes on
    exact exists_advance_eq_next (s := s.setPort p) hb hs _
  · -- an idle block waits
    exact ⟨_, rfl⟩
  · -- a presented word is accepted
    exact ⟨_, rfl⟩
  · -- an illegal word
    exact ⟨_, rfl⟩
  · -- a called word runs to its completion
    exact ⟨_, exec_idle (s := s.setPort p) hb i⟩

end Sys2Proof.Machine
end

section
/-! The delay requests of a micro-program (spec/60_exceptions.md R210), O53. -/

namespace Sys2Proof.Machine

/-- The list asks for bus delays, strobe delays and clear delays only. -/
def AsksThreeKinds (c : Config) (ops : List MicroOp) : Prop :=
  ∀ d ∈ delaysAsked ops, d = (.us, c.tBusUs) ∨ d = (.us, c.tStrobeUs) ∨ d = (.ms, c.tClearMs)

@[simp] theorem asksThreeKinds_append {c : Config} {a b : List MicroOp} :
    AsksThreeKinds c (a ++ b) ↔ AsksThreeKinds c a ∧ AsksThreeKinds c b := by
  rw [AsksThreeKinds, delaysAsked_append]
  exact List.forall_mem_append

/-- A list that asks for no delay. -/
theorem asksThreeKinds_of_delaysAsked_eq_nil {c : Config} {ops : List MicroOp} (h : delaysAsked ops = []) :
    AsksThreeKinds c ops := by
  simp [AsksThreeKinds, h]

/-- A list that asks for bus delays only, `n` of them. -/
theorem asksThreeKinds_of_busDelays {c : Config} {ops : List MicroOp} (n : Nat)
    (h : delaysAsked ops = List.replicate n (.us, c.tBusUs)) : AsksThreeKinds c ops :=
  fun _ hd => .inl (List.eq_of_mem_replicate (h ▸ hd))

section
variable (c : Config)

theorem asksThreeKinds_busDelay : AsksThreeKinds c [busDelay c] := asksThreeKinds_of_busDelays 1 rfl

@[simp] theorem asksThreeKinds_strobeDelay : AsksThreeKinds c [strobeDelay c] :=
  fun _ hd => .inr (.inl (List.mem_singleton.mp hd))

@[simp] theorem asksThreeKinds_clearDelay : AsksThreeKinds c [clearDelay c] :=
  fun _ hd => .inr (.inr (List.mem_singleton.mp hd))

@[simp] theorem asksThreeKinds_uStart : AsksThreeKinds c (uStart c) := asksThreeKinds_of_busDelays 3 rfl

@[simp] theorem asksThreeKinds_uStop : AsksThreeKinds c (uStop c) := by
  unfold uStop
  split
  · exact asksThreeKinds_of_busDelays 3 rfl
  · exact asksThreeKinds_of_busDelays 2 rfl

@[simp] theorem asksThreeKinds_uXfer (v : Byte) : AsksThreeKinds c (uXfer c v) := asksThreeKinds_of_busDelays 17 rfl

@[simp] theorem asksThreeKinds_uWrite (addr : BusAddr) (p : Byte) : AsksThreeKinds c (uWrite c addr p) := by
  simp [uWrite]

@[simp] theorem asksThreeKinds_uStrobeWrite (n : Byte) : AsksThreeKinds c (uStrobeWrite c n) := by
  simp [uStrobeWrite]

@[simp] theorem asksThreeKinds_uSendb (m : Mode) (v : Byte) : AsksThreeKinds c (uSendb c m v) := by
  simp [uSendb, uNib]

@[simp] theorem asksThreeKinds_uClear : AsksThreeKinds c (uClear c) := by
  simp [uClear]

theorem asksThreeKinds_uInit : AsksThreeKinds c (uInit c) := by
  simp [uInit]

end

/-- Settles O53. -/
theorem delaysAreOfThreeKinds : Obligations.DelaysAreOfThreeKinds := by
  intro c i
  cases i with
  | llow l | lrel l | lread l => exact asksThreeKinds_of_delaysAsked_eq_nil rfl
  | delay => exact asksThreeKinds_busDelay c
  | start | restart => exact asksThreeKinds_uStart c
  | stop => exact asksThreeKinds_uStop c
  | xfer v => exact asksThreeKinds_uXfer c v
  | write addr p => exact asksThreeKinds_uWrite c addr p
  | sendb m v => exact asksThreeKinds_uSendb c m v
  | setcur line column => exact asksThreeKinds_uSendb c _ _
  | clear => exact asksThreeKinds_uClear c
  | init => exact asksThreeKinds_uInit c

end Sys2Proof.Machine
end

section
/-! A reset step (spec/70_reset_and_hazards.md R230, R232), O23. -/

namespace Sys2Proof.Machine

/-- A reset is looked at in every state, busy or idle (R232). -/
theorem step_rst {s : State} {rest : List PortInput} (hp : s.port = .rst :: rest) :
    step s = .next (assertReset (s.setPort rest)) := by
  simp [step, fetch, hp]

/-- Settles O23: the step is `assertReset`, and its laws are what each register becomes. -/
theorem aResetStepReleasesTheBlock : Obligations.AResetStepReleasesTheBlock := by
  intro s rest hp
  have hdone : (assertReset (s.setPort rest)).outputs.done = false :=
    outputs_done_of_trace (assertReset_trace (s.setPort rest))
  exact ⟨_, step_rst hp, rfl, rfl, rfl, rfl, rfl, rfl, rfl, rfl, hdone, rfl, rfl, rfl⟩

end Sys2Proof.Machine
end

section
/-! The minimum time of every micro-program (spec/70_reset_and_hazards.md R255), O52: it is added up over the parts a
micro-program is joined from. -/

namespace Sys2Proof.Machine

section
variable (c : Config)

theorem minTimeUs_busDelay : minTimeUs [busDelay c] = c.tBusUs := rfl

theorem minTimeUs_strobeDelay : minTimeUs [strobeDelay c] = c.tStrobeUs := rfl

theorem minTimeUs_clearDelay : minTimeUs [clearDelay c] = 1000 * c.tClearMs := rfl

theorem minTimeUs_uStart : minTimeUs (uStart c) = 3 * c.tBusUs := by
  simp only [minTimeUs, uStart, busDelay, List.map, MicroOp.minUs, List.sum_cons, List.sum_nil]
  omega

theorem minTimeUs_uStopLiteral : minTimeUs (uStopLiteral c) = 2 * c.tBusUs := by
  simp only [minTimeUs, uStopLiteral, busDelay, List.map, MicroOp.minUs, List.sum_cons, List.sum_nil]
  omega

/-- The data line driven low first costs one bus delay more (R135). -/
theorem minTimeUs_uStop : minTimeUs (uStop c) = (if c.stopSdaLowFirst then 3 else 2) * c.tBusUs := by
  have hlow : minTimeUs [.set .sda .low, busDelay c] = c.tBusUs := Nat.zero_add _
  unfold uStop
  split
  · rw [minTimeUs_append, hlow, minTimeUs_uStopLiteral]
    omega
  · exact minTimeUs_uStopLiteral c

/-- A start, two bytes and a stop (R160). -/
theorem minTimeUs_uWrite (addr : BusAddr) (p : Byte) :
    minTimeUs (uWrite c addr p) = (if c.stopSdaLowFirst then 40 else 39) * c.tBusUs := by
  simp only [uWrite, minTimeUs_append, minTimeUs_uStart, minTimeUs_uXfer, minTimeUs_uStop]
  split <;> omega

/-- Six WRITEs, a strobe delay after each (R170, R171). -/
theorem minTimeUs_uSendb (m : Mode) (v : Byte) :
    minTimeUs (uSendb c m v) = (if c.stopSdaLowFirst then 240 else 234) * c.tBusUs + 6 * c.tStrobeUs := by
  simp only [uSendb, uNib, uStrobeWrite, minTimeUs_append, minTimeUs_uWrite, minTimeUs_strobeDelay]
  split <;> omega

theorem minTimeUs_uClear : minTimeUs (uClear c) =
    (if c.stopSdaLowFirst then 240 else 234) * c.tBusUs + 6 * c.tStrobeUs + 1000 * c.tClearMs := by
  rw [uClear, minTimeUs_append, minTimeUs_uSendb, minTimeUs_clearDelay]

/-- Eight SENDBs, the last of them with the clear delay (R180). -/
theorem minTimeUs_uInit : minTimeUs (uInit c) =
    (if c.stopSdaLowFirst then 1920 else 1872) * c.tBusUs + 48 * c.tStrobeUs + 1000 * c.tClearMs := by
  simp only [uInit, minTimeUs_append, minTimeUs_uSendb, minTimeUs_uClear]
  split <;> omega

end

/-- Settles O52. -/
theorem minimumTimes : Obligations.MinimumTimes := by
  intro c i
  cases i with
  | llow l | lrel l | lread l => rfl
  | delay => exact minTimeUs_busDelay c
  | start | restart => exact minTimeUs_uStart c
  | stop => exact minTimeUs_uStop c
  | xfer v => exact minTimeUs_uXfer c v
  | write addr p => exact minTimeUs_uWrite c addr p
  | sendb m v => exact minTimeUs_uSendb c m v
  | setcur line column => exact minTimeUs_uSendb c _ _
  | clear => exact minTimeUs_uClear c
  | init => exact minTimeUs_uInit c

end Sys2Proof.Machine
end
